-- ==== Sys2Proof/Word.lean ====
section
/-! DEFINITION. The word types of the machine (spec/00_scope.md R3, R6): bytes, 16-bit words and the instruction fields.
All values are unsigned (R6), so core `BitVec` with its unsigned order is used throughout. -/

namespace Sys2Proof

/-- An 8-bit value: a general register, a timer, a memory cell (R10, R19, R20, R21). -/
abbrev Byte := BitVec 8

/-- A 16-bit value: the instruction word, `I`, `pc`, a stack slot (R13, R16, R17, R60). -/
abbrev Word := BitVec 16

/-- A 4-bit field: a register selector `x` or `y`, or the immediate `n` (R61). -/
abbrev Nibble := BitVec 4

/-- The 12-bit field `nnn` (R61), also the low 12 bits of an unrecognized word. -/
abbrev Low12 := BitVec 12

end Sys2Proof
end

