-- ==== Sys2Proof/Config.lean ====
section
/-! DEFINITION. What the machine fixes and what stays open (spec/00_scope.md R3, R4): each open parameter of R4 under its own
name at the value this spec gives it, the default font table, and the free values (the inputs of a tick). The sizes of R3 are constants of this
hardware and stand as literals and types where they are used (4096 bytes, 80 font bytes, 0x200, 16 registers, slots and keys, 64 by 32
pixels). -/

namespace Sys2Proof

/-! ## Policies (R4): the constructors are the values R4 names -/

/-- `OOB_POLICY` (D7): an access above 0xFFF faults, or its address is taken modulo 4096. -/
inductive OobPolicy where
  | fault | wrap12
  deriving DecidableEq, Repr

/-- `UNDERFLOW_POLICY` (D6): a return with `sp = 0` faults, or wraps to slot 15. -/
inductive UnderflowPolicy where
  | fault | wrap
  deriving DecidableEq, Repr

/-- `KEYIDX_POLICY` (D9): a key test with a register value above 15 faults, or uses the low nibble. -/
inductive KeyIdxPolicy where
  | fault | low4
  deriving DecidableEq, Repr

/-- `BCD3_MODE` (D10): the third byte of the BCD store is `v div 100`, or `v mod 10`. -/
inductive Bcd3Mode where
  | div100 | mod10
  deriving DecidableEq, Repr

/-- `DECODE_KEY_0`, `DECODE_KEY_E` (D5): what classes 0x0 and 0xE examine after the top nibble. -/
inductive DecodeKey where
  | lowByte | lowNibble
  deriving DecidableEq, Repr

/-- `DECODE_59_LOW` (D5): the low nibble of 5xy? and 9xy? is not examined, or must be 0. -/
inductive Decode59Low where
  | notExamined | mustBeZero
  deriving DecidableEq, Repr

/-- DESIGN CHOICE of the spec (D7), log entry 9. -/
def Config.oobPolicy : OobPolicy := .fault
/-- DESIGN CHOICE of the spec (D6), log entry 10. -/
def Config.underflowPolicy : UnderflowPolicy := .fault
/-- DESIGN CHOICE of the spec (D9), log entry 11. -/
def Config.keyIdxPolicy : KeyIdxPolicy := .fault
/-- DESIGN CHOICE of the spec (D10), log entry 12. -/
def Config.bcd3Mode : Bcd3Mode := .div100
/-- DESIGN CHOICE of the spec (D5), log entry 13. -/
def Config.decodeKey0 : DecodeKey := .lowByte
/-- DESIGN CHOICE of the spec (D5), log entry 13. -/
def Config.decodeKeyE : DecodeKey := .lowByte
/-- DESIGN CHOICE of the spec (D5), log entry 13. -/
def Config.decode59Low : Decode59Low := .notExamined

/-- `RESET_ZERO` (D2) for `V[0..15]`, `DT` and `ST`: what they hold at reset, where the source gives no value.
DESIGN CHOICE, log entry 6. -/
def Config.resetByte : Byte := 0
/-- `RESET_ZERO` (D2) for `I` and the stack slots. DESIGN CHOICE, log entry 6. -/
def Config.resetWord : Word := 0
/-- `RESET_ZERO` (D2) for `sp`: an empty stack. DESIGN CHOICE, log entry 6. -/
def Config.resetSp : Fin 17 := 0
/-- `RESET_ZERO` (D2) for every pixel of the frame buffer. DESIGN CHOICE, log entry 6. -/
def Config.resetPixel : Bool := false
/-- `RESET_ZERO` (D2) for `dirty`. DESIGN CHOICE, log entry 6. -/
def Config.resetDirty : Bool := false

/-- `TICK_HZ` (R4, R214): about 500 ticks a second. Timing only: nothing reads it (log entry 26). -/
def Config.tickHz : Nat := 500

/-! ## The font table and the program (R4, R42) -/

/-- `FONT`: the default 80 bytes of R42, 16 sprites of 5 bytes. PRESUMED (general knowledge G1, D18), log entry 7. -/
def Config.font : List Byte :=
  [0xF0, 0x90, 0x90, 0x90, 0xF0]
  ++ [0x20, 0x60, 0x20, 0x20, 0x70]
  ++ [0xF0, 0x10, 0xF0, 0x80, 0xF0]
  ++ [0xF0, 0x10, 0xF0, 0x10, 0xF0]
  ++ [0x90, 0x90, 0xF0, 0x10, 0x10]
  ++ [0xF0, 0x80, 0xF0, 0x10, 0xF0]
  ++ [0xF0, 0x80, 0xF0, 0x90, 0xF0]
  ++ [0xF0, 0x10, 0x20, 0x40, 0x40]
  ++ [0xF0, 0x90, 0xF0, 0x90, 0xF0]
  ++ [0xF0, 0x90, 0xF0, 0x10, 0xF0]
  ++ [0xF0, 0x90, 0xF0, 0x90, 0x90]
  ++ [0xE0, 0x90, 0xE0, 0x90, 0xE0]
  ++ [0xF0, 0x80, 0x80, 0x80, 0xF0]
  ++ [0xE0, 0x90, 0x90, 0x90, 0xE0]
  ++ [0xF0, 0x80, 0xF0, 0x80, 0xF0]
  ++ [0xF0, 0x80, 0xF0, 0x80, 0x80]

/-- `PROGRAM` of `State.reset`: empty, which R43 says is legal. The program is an argument of `State.boot` (log entry 8). -/
def Config.program : List Byte := []

/-! ## The free values: the environment's inputs of the tick with this number (R5), where no script gives them. None has a body, so a
proof holds for every value. -/

/-- `quit` (R81): the environment may ask at any tick (R186). Log entry 2. -/
opaque Config.quitIn : Nat → Bool

/-- `keys_in` (R82, D14): any 16-bit value in any tick. Log entry 2. -/
opaque Config.keysIn : Nat → Word

/-- `rand_in` (R131, D11): any byte. Log entry 3. -/
opaque Config.randIn : Nat → Byte

end Sys2Proof
end

