-- ==== Sys2Proof/Syntax.lean ====
section
/-! DEFINITION. The instructions: one constructor for each of the 38 rows of spec/opcode_table.json (spec/30_encoding.md R64),
carrying the fields the row uses (R61). Bits a row ignores (R67) are no argument, except in the four UNREC rows, whose
diagnostic carries the whole word (R96): they keep the 12 low bits. -/

namespace Sys2Proof

inductive Instr where
  /-- CLS, 00E0 (R150) -/
  | cls
  /-- RET, 00EE (R100) -/
  | ret
  /-- UNREC_0, the other words of class 0x0 (R92) -/
  | unrec0 (low : Low12)
  /-- JP, 1nnn (R101) -/
  | jp (nnn : Low12)
  /-- CALL, 2nnn (R102) -/
  | call (nnn : Low12)
  /-- SE_IMM, 3xnn (R110) -/
  | seImm (x : Nibble) (nn : Byte)
  /-- SNE_IMM, 4xnn (R111) -/
  | sneImm (x : Nibble) (nn : Byte)
  /-- SE_REG, 5xy0 (R112) -/
  | seReg (x y : Nibble)
  /-- LD_IMM, 6xnn (R120) -/
  | ldImm (x : Nibble) (nn : Byte)
  /-- ADD_IMM, 7xnn (R121) -/
  | addImm (x : Nibble) (nn : Byte)
  /-- MOV, 8xy0 (R122) -/
  | mov (x y : Nibble)
  /-- OR, 8xy1 (R123) -/
  | orReg (x y : Nibble)
  /-- AND, 8xy2 (R124) -/
  | andReg (x y : Nibble)
  /-- XOR, 8xy3 (R125) -/
  | xorReg (x y : Nibble)
  /-- ADD_REG, 8xy4 (R126) -/
  | addReg (x y : Nibble)
  /-- SUB, 8xy5 (R127) -/
  | sub (x y : Nibble)
  /-- SHR, 8xy6, `y` ignored (R128) -/
  | shr (x : Nibble)
  /-- SUBN, 8xy7 (R129) -/
  | subn (x y : Nibble)
  /-- SHL, 8xyE, `y` ignored (R130) -/
  | shl (x : Nibble)
  /-- UNREC_8, the other words of class 0x8 (R93) -/
  | unrec8 (low : Low12)
  /-- SNE_REG, 9xy0 (R113) -/
  | sneReg (x y : Nibble)
  /-- LD_I, Annn (R140) -/
  | ldI (nnn : Low12)
  /-- JP_V0, Bnnn (R103) -/
  | jpV0 (nnn : Low12)
  /-- RND, Cxnn (R131) -/
  | rnd (x : Nibble) (nn : Byte)
  /-- DRW, Dxyn (R152) -/
  | drw (x y n : Nibble)
  /-- SKP, Ex9E (R160) -/
  | skp (x : Nibble)
  /-- SKNP, ExA1 (R161) -/
  | sknp (x : Nibble)
  /-- UNREC_E, the other words of class 0xE (R94) -/
  | unrecE (low : Low12)
  /-- LD_VX_DT, Fx07 (R162) -/
  | ldVxDt (x : Nibble)
  /-- WAITKEY, Fx0A (R163) -/
  | waitkey (x : Nibble)
  /-- LD_DT_VX, Fx15 (R164) -/
  | ldDtVx (x : Nibble)
  /-- LD_ST_VX, Fx18 (R165) -/
  | ldStVx (x : Nibble)
  /-- ADD_I, Fx1E (R141) -/
  | addI (x : Nibble)
  /-- LD_F, Fx29 (R142) -/
  | ldF (x : Nibble)
  /-- BCD, Fx33 (R143) -/
  | bcd (x : Nibble)
  /-- STM, Fx55 (R144) -/
  | stm (x : Nibble)
  /-- LDM, Fx65 (R145) -/
  | ldm (x : Nibble)
  /-- UNREC_F, the other words of class 0xF (R95) -/
  | unrecF (low : Low12)
  deriving DecidableEq, Repr

end Sys2Proof
end

