-- ==== Sys2Proof/WellFormed.lean ====
section
/-! DEFINITION. Which terms of `Instr` stand for a word. Every field has the width of its encoding (spec/30_encoding.md R61), so the
only ill-formed terms are UNREC terms whose low bits belong to a defined row of their class (R63, R64, R92 to R95). -/

namespace Sys2Proof

/-- The low byte of the 12 low bits of a word. -/
def low12Byte (low : Low12) : Byte := low.extractLsb' 0 8
/-- The low nibble of the 12 low bits of a word. -/
def low12Nibble (low : Low12) : Nibble := low.extractLsb' 0 4

/-- No defined row of class 0x0 has these low bits (R92). -/
def unrec0Ok (low : Low12) : Bool :=
  match Config.decodeKey0 with
  | .lowByte => low12Byte low != 0xE0#8 && low12Byte low != 0xEE#8
  | .lowNibble => low12Nibble low != 0x0#4 && low12Nibble low != 0xE#4

/-- No defined row of class 0x8 has this low nibble (R93). -/
def unrec8Ok (low : Low12) : Bool :=
  !([0x0, 0x1, 0x2, 0x3, 0x4, 0x5, 0x6, 0x7, 0xE] : List Nibble).contains (low12Nibble low)

/-- No defined row of class 0xE has these low bits (R94). -/
def unrecEOk (low : Low12) : Bool :=
  match Config.decodeKeyE with
  | .lowByte => low12Byte low != 0x9E#8 && low12Byte low != 0xA1#8
  | .lowNibble => low12Nibble low != 0xE#4 && low12Nibble low != 0x1#4

/-- No defined row of class 0xF has this low byte (R95). -/
def unrecFOk (low : Low12) : Bool :=
  !([0x07, 0x0A, 0x15, 0x18, 0x1E, 0x29, 0x33, 0x55, 0x65] : List Byte).contains (low12Byte low)

/-- The terms that stand for a word of spec/30_encoding.md R64. -/
def Instr.wellFormed : Instr → Bool
  | .unrec0 low => unrec0Ok low
  | .unrec8 low => unrec8Ok low
  | .unrecE low => unrecEOk low
  | .unrecF low => unrecFOk low
  | .cls => true
  | .ret => true
  | .jp _ => true
  | .call _ => true
  | .seImm _ _ => true
  | .sneImm _ _ => true
  | .seReg _ _ => true
  | .ldImm _ _ => true
  | .addImm _ _ => true
  | .mov _ _ => true
  | .orReg _ _ => true
  | .andReg _ _ => true
  | .xorReg _ _ => true
  | .addReg _ _ => true
  | .sub _ _ => true
  | .shr _ => true
  | .subn _ _ => true
  | .shl _ => true
  | .sneReg _ _ => true
  | .ldI _ => true
  | .jpV0 _ => true
  | .rnd _ _ => true
  | .drw _ _ _ => true
  | .skp _ => true
  | .sknp _ => true
  | .ldVxDt _ => true
  | .waitkey _ => true
  | .ldDtVx _ => true
  | .ldStVx _ => true
  | .addI _ => true
  | .ldF _ => true
  | .bcd _ => true
  | .stm _ => true
  | .ldm _ => true

/-- Well-formedness as a proposition. -/
abbrev Instr.WellFormed (i : Instr) : Prop := i.wellFormed = true

end Sys2Proof
end

