-- ==== Sys2Proof/Decode.lean ====
section
/-! DEFINITION. Decoding and encoding (spec/30_encoding.md R60 to R67, spec/opcode_table.json). The decoder goes in two levels, class nibble
then sub-opcode (R63); it is total on words (R65) and rejects by name a byte list that holds no whole word. The encoder is
written from the same table and puts 0 in every ignored position (R67). The table itself, for statements that hold the decoder
against it, and the assembly spelling stand last. -/

namespace Sys2Proof

/-- Why bytes decode to no instruction. -/
inductive DecodeError where
  /-- fewer than two bytes were given (R60); no fetch of the machine does this -/
  | tooShort
  /-- only when `Config.decode59Low` is `mustBeZero`: a word of class 0x5 or 0x9 that no row has (R68) -/
  | noRow (op : Word)
  deriving DecidableEq, Repr

/-! ## Fields (R61) -/

/-- `c`, bits 15:12. -/
def fieldC (op : Word) : Nibble := op.extractLsb' 12 4
/-- `x`, bits 11:8 (C1). -/
def fieldX (op : Word) : Nibble := op.extractLsb' 8 4
/-- `y`, bits 7:4 (C1). -/
def fieldY (op : Word) : Nibble := op.extractLsb' 4 4
/-- `n`, bits 3:0. -/
def fieldN (op : Word) : Nibble := op.extractLsb' 0 4
/-- `nn`, bits 7:0. -/
def fieldNN (op : Word) : Byte := op.extractLsb' 0 8
/-- `nnn`, bits 11:0. -/
def fieldNNN (op : Word) : Low12 := op.extractLsb' 0 12

/-! ## The second level of decode (R63) -/

/-- Class 0x0 (D5, log entry 13). -/
def decodeClass0 (op : Word) : Instr :=
  match Config.decodeKey0 with
  | .lowByte =>
    if fieldNN op = 0xE0#8 then .cls
    else if fieldNN op = 0xEE#8 then .ret
    else .unrec0 (fieldNNN op)
  | .lowNibble =>
    if fieldN op = 0x0#4 then .cls
    else if fieldN op = 0xE#4 then .ret
    else .unrec0 (fieldNNN op)

/-- Class 0x8: the low nibble. -/
def decodeClass8 (op : Word) : Instr :=
  let x := fieldX op
  let y := fieldY op
  match (fieldN op).toNat with
  | 0x0 => .mov x y
  | 0x1 => .orReg x y
  | 0x2 => .andReg x y
  | 0x3 => .xorReg x y
  | 0x4 => .addReg x y
  | 0x5 => .sub x y
  | 0x6 => .shr x
  | 0x7 => .subn x y
  | 0xE => .shl x
  | _ => .unrec8 (fieldNNN op)

/-- Class 0xE (D5, log entry 13). -/
def decodeClassE (op : Word) : Instr :=
  match Config.decodeKeyE with
  | .lowByte =>
    if fieldNN op = 0x9E#8 then .skp (fieldX op)
    else if fieldNN op = 0xA1#8 then .sknp (fieldX op)
    else .unrecE (fieldNNN op)
  | .lowNibble =>
    if fieldN op = 0xE#4 then .skp (fieldX op)
    else if fieldN op = 0x1#4 then .sknp (fieldX op)
    else .unrecE (fieldNNN op)

/-- Class 0xF: the low byte. -/
def decodeClassF (op : Word) : Instr :=
  let x := fieldX op
  match (fieldNN op).toNat with
  | 0x07 => .ldVxDt x
  | 0x0A => .waitkey x
  | 0x15 => .ldDtVx x
  | 0x18 => .ldStVx x
  | 0x1E => .addI x
  | 0x29 => .ldF x
  | 0x33 => .bcd x
  | 0x55 => .stm x
  | 0x65 => .ldm x
  | _ => .unrecF (fieldNNN op)

/-- Classes 0x5 and 0x9: the low nibble is not examined (D5, log entry 13). -/
def decodeClass59 (op : Word) (i : Instr) : Except DecodeError Instr :=
  match Config.decode59Low with
  | .notExamined => .ok i
  | .mustBeZero => if fieldN op = 0#4 then .ok i else .error (.noRow op)

/-! ## Decode -/

/-- The instruction a word selects (R63, R64). -/
def decodeWord (op : Word) : Except DecodeError Instr :=
  match (fieldC op).toNat with
  | 0x0 => .ok (decodeClass0 op)
  | 0x1 => .ok (.jp (fieldNNN op))
  | 0x2 => .ok (.call (fieldNNN op))
  | 0x3 => .ok (.seImm (fieldX op) (fieldNN op))
  | 0x4 => .ok (.sneImm (fieldX op) (fieldNN op))
  | 0x5 => decodeClass59 op (.seReg (fieldX op) (fieldY op))
  | 0x6 => .ok (.ldImm (fieldX op) (fieldNN op))
  | 0x7 => .ok (.addImm (fieldX op) (fieldNN op))
  | 0x8 => .ok (decodeClass8 op)
  | 0x9 => decodeClass59 op (.sneReg (fieldX op) (fieldY op))
  | 0xA => .ok (.ldI (fieldNNN op))
  | 0xB => .ok (.jpV0 (fieldNNN op))
  | 0xC => .ok (.rnd (fieldX op) (fieldNN op))
  | 0xD => .ok (.drw (fieldX op) (fieldY op) (fieldN op))
  | 0xE => .ok (decodeClassE op)
  | _ => .ok (decodeClassF op)

/-- The word of two bytes: the byte at the lower address is the high byte (spec/20_memory.md R47). -/
def wordOfBytes (hi lo : Byte) : Word := hi ++ lo

/-- The two bytes of a word as memory holds them, lower address first (R47). -/
def bytesOfWord (op : Word) : List Byte := [op.extractLsb' 8 8, op.extractLsb' 0 8]

/-- Decode from bytes: the instruction and the rest of the list. Every instruction is two bytes (R60). -/
def decode : List Byte → Except DecodeError (Instr × List Byte)
  | hi :: lo :: rest =>
    match decodeWord (wordOfBytes hi lo) with
    | .ok i => .ok (i, rest)
    | .error e => .error e
  | _ => .error .tooShort

/-- The bits of a table word as one 16-bit word; the bits above `nbits` are 0. -/
def tableWord (nbits w : Nat) : Word := BitVec.ofNat 16 (w % 2 ^ nbits)

/-- The instruction the decoder reads from the bytes of a word numbered as spec/opcode_table.json numbers it. -/
def decodeTableWord (nbits w : Nat) : Option Instr :=
  match decode (bytesOfWord (tableWord nbits w)) with
  | .ok (i, _) => some i
  | .error _ => none

/-! ## Encode -/

/-- A word of the form `c nnn`. -/
def encNNN (c : Nibble) (nnn : Low12) : Word := c ++ nnn
/-- A word of the form `c x nn`. -/
def encXNN (c x : Nibble) (nn : Byte) : Word := c ++ (x ++ nn : BitVec 12)
/-- A word of the form `c x y n`. -/
def encXYN (c x y n : Nibble) : Word := c ++ (x ++ (y ++ n : BitVec 8) : BitVec 12)

/-- The word of an instruction, from the encodings of spec/opcode_table.json, with 0 in ignored positions (R67). -/
def encode : Instr → Word
  | .cls => encNNN 0x0#4 0x0E0#12
  | .ret => encNNN 0x0#4 0x0EE#12
  | .unrec0 low => encNNN 0x0#4 low
  | .jp nnn => encNNN 0x1#4 nnn
  | .call nnn => encNNN 0x2#4 nnn
  | .seImm x nn => encXNN 0x3#4 x nn
  | .sneImm x nn => encXNN 0x4#4 x nn
  | .seReg x y => encXYN 0x5#4 x y 0x0#4
  | .ldImm x nn => encXNN 0x6#4 x nn
  | .addImm x nn => encXNN 0x7#4 x nn
  | .mov x y => encXYN 0x8#4 x y 0x0#4
  | .orReg x y => encXYN 0x8#4 x y 0x1#4
  | .andReg x y => encXYN 0x8#4 x y 0x2#4
  | .xorReg x y => encXYN 0x8#4 x y 0x3#4
  | .addReg x y => encXYN 0x8#4 x y 0x4#4
  | .sub x y => encXYN 0x8#4 x y 0x5#4
  | .shr x => encXYN 0x8#4 x 0x0#4 0x6#4
  | .subn x y => encXYN 0x8#4 x y 0x7#4
  | .shl x => encXYN 0x8#4 x 0x0#4 0xE#4
  | .unrec8 low => encNNN 0x8#4 low
  | .sneReg x y => encXYN 0x9#4 x y 0x0#4
  | .ldI nnn => encNNN 0xA#4 nnn
  | .jpV0 nnn => encNNN 0xB#4 nnn
  | .rnd x nn => encXNN 0xC#4 x nn
  | .drw x y n => encXYN 0xD#4 x y n
  | .skp x => encXNN 0xE#4 x 0x9E#8
  | .sknp x => encXNN 0xE#4 x 0xA1#8
  | .unrecE low => encNNN 0xE#4 low
  | .ldVxDt x => encXNN 0xF#4 x 0x07#8
  | .waitkey x => encXNN 0xF#4 x 0x0A#8
  | .ldDtVx x => encXNN 0xF#4 x 0x15#8
  | .ldStVx x => encXNN 0xF#4 x 0x18#8
  | .addI x => encXNN 0xF#4 x 0x1E#8
  | .ldF x => encXNN 0xF#4 x 0x29#8
  | .bcd x => encXNN 0xF#4 x 0x33#8
  | .stm x => encXNN 0xF#4 x 0x55#8
  | .ldm x => encXNN 0xF#4 x 0x65#8
  | .unrecF low => encNNN 0xF#4 low

/-! ## The opcode table (R64), for statements about the decoder -/

/-- One row of R64: the words `op` with `op AND mask = pattern`. -/
structure OpcodeRow where
  mnemonic : String
  pattern : Word
  mask : Word
  deriving DecidableEq, Repr

/-- A word matches a row (R64). -/
def OpcodeRow.matchesWord (r : OpcodeRow) (op : Word) : Bool := op &&& r.mask == r.pattern

/-- How many bits a row examines. -/
def OpcodeRow.specificity (r : OpcodeRow) : Nat :=
  ((List.range 16).filter fun k => r.mask.getLsbD k).length

/-- The 38 rows of R64. -/
def opcodeTable : List OpcodeRow :=
  [⟨"CLS", 0x00E0#16, 0xF0FF#16⟩, ⟨"RET", 0x00EE#16, 0xF0FF#16⟩, ⟨"UNREC_0", 0x0000#16, 0xF000#16⟩, ⟨"JP", 0x1000#16, 0xF000#16⟩,
   ⟨"CALL", 0x2000#16, 0xF000#16⟩, ⟨"SE_IMM", 0x3000#16, 0xF000#16⟩, ⟨"SNE_IMM", 0x4000#16, 0xF000#16⟩, ⟨"SE_REG", 0x5000#16, 0xF000#16⟩]
  ++ [⟨"LD_IMM", 0x6000#16, 0xF000#16⟩, ⟨"ADD_IMM", 0x7000#16, 0xF000#16⟩, ⟨"MOV", 0x8000#16, 0xF00F#16⟩, ⟨"OR", 0x8001#16, 0xF00F#16⟩,
   ⟨"AND", 0x8002#16, 0xF00F#16⟩, ⟨"XOR", 0x8003#16, 0xF00F#16⟩, ⟨"ADD_REG", 0x8004#16, 0xF00F#16⟩, ⟨"SUB", 0x8005#16, 0xF00F#16⟩]
  ++ [⟨"SHR", 0x8006#16, 0xF00F#16⟩, ⟨"SUBN", 0x8007#16, 0xF00F#16⟩, ⟨"SHL", 0x800E#16, 0xF00F#16⟩, ⟨"UNREC_8", 0x8000#16, 0xF000#16⟩,
   ⟨"SNE_REG", 0x9000#16, 0xF000#16⟩, ⟨"LD_I", 0xA000#16, 0xF000#16⟩, ⟨"JP_V0", 0xB000#16, 0xF000#16⟩, ⟨"RND", 0xC000#16, 0xF000#16⟩]
  ++ [⟨"DRW", 0xD000#16, 0xF000#16⟩, ⟨"SKP", 0xE09E#16, 0xF0FF#16⟩, ⟨"SKNP", 0xE0A1#16, 0xF0FF#16⟩, ⟨"UNREC_E", 0xE000#16, 0xF000#16⟩,
   ⟨"LD_VX_DT", 0xF007#16, 0xF0FF#16⟩, ⟨"WAITKEY", 0xF00A#16, 0xF0FF#16⟩, ⟨"LD_DT_VX", 0xF015#16, 0xF0FF#16⟩, ⟨"LD_ST_VX", 0xF018#16, 0xF0FF#16⟩]
  ++ [⟨"ADD_I", 0xF01E#16, 0xF0FF#16⟩, ⟨"LD_F", 0xF029#16, 0xF0FF#16⟩, ⟨"BCD", 0xF033#16, 0xF0FF#16⟩, ⟨"STM", 0xF055#16, 0xF0FF#16⟩,
   ⟨"LDM", 0xF065#16, 0xF0FF#16⟩, ⟨"UNREC_F", 0xF000#16, 0xF000#16⟩]

/-- The row of R64 an instruction stands for. -/
def mnemonicOf : Instr → String
  | .cls => "CLS"
  | .ret => "RET"
  | .unrec0 _ => "UNREC_0"
  | .jp _ => "JP"
  | .call _ => "CALL"
  | .seImm _ _ => "SE_IMM"
  | .sneImm _ _ => "SNE_IMM"
  | .seReg _ _ => "SE_REG"
  | .ldImm _ _ => "LD_IMM"
  | .addImm _ _ => "ADD_IMM"
  | .mov _ _ => "MOV"
  | .orReg _ _ => "OR"
  | .andReg _ _ => "AND"
  | .xorReg _ _ => "XOR"
  | .addReg _ _ => "ADD_REG"
  | .sub _ _ => "SUB"
  | .shr _ => "SHR"
  | .subn _ _ => "SUBN"
  | .shl _ => "SHL"
  | .unrec8 _ => "UNREC_8"
  | .sneReg _ _ => "SNE_REG"
  | .ldI _ => "LD_I"
  | .jpV0 _ => "JP_V0"
  | .rnd _ _ => "RND"
  | .drw _ _ _ => "DRW"
  | .skp _ => "SKP"
  | .sknp _ => "SKNP"
  | .unrecE _ => "UNREC_E"
  | .ldVxDt _ => "LD_VX_DT"
  | .waitkey _ => "WAITKEY"
  | .ldDtVx _ => "LD_DT_VX"
  | .ldStVx _ => "LD_ST_VX"
  | .addI _ => "ADD_I"
  | .ldF _ => "LD_F"
  | .bcd _ => "BCD"
  | .stm _ => "STM"
  | .ldm _ => "LDM"
  | .unrecF _ => "UNREC_F"

/-! ## The assembly spelling (R69, D16, log entry 32): nothing reads it -/

/-- One hexadecimal digit. -/
def hexDigit (n : Nat) : String :=
  (["0", "1", "2", "3", "4", "5", "6", "7", "8", "9", "A", "B", "C", "D", "E", "F"] : List String).getD n "0"
/-- `V0` to `VF`. -/
def regName (x : Nibble) : String := "V" ++ hexDigit x.toNat
/-- An 8-bit immediate. -/
def hex8 (b : Byte) : String := "0x" ++ hexDigit (b.toNat / 16) ++ hexDigit (b.toNat % 16)
/-- A 12-bit address. -/
def hex12 (a : Low12) : String := "0x" ++ hexDigit (a.toNat / 256) ++ hexDigit (a.toNat / 16 % 16) ++ hexDigit (a.toNat % 16)
/-- A word of data. -/
def dataWord (c : Nibble) (low : Low12) : String :=
  "DW 0x" ++ hexDigit c.toNat ++ hexDigit (low.toNat / 256) ++ hexDigit (low.toNat / 16 % 16) ++ hexDigit (low.toNat % 16)

/-- The spelling of R69. An UNREC word has none of its own and is written as data. -/
def assembly : Instr → String
  | .cls => "CLS"
  | .ret => "RET"
  | .unrec0 low => dataWord 0x0#4 low
  | .jp nnn => "JP " ++ hex12 nnn
  | .call nnn => "CALL " ++ hex12 nnn
  | .seImm x nn => "SE " ++ regName x ++ ", " ++ hex8 nn
  | .sneImm x nn => "SNE " ++ regName x ++ ", " ++ hex8 nn
  | .seReg x y => "SE " ++ regName x ++ ", " ++ regName y
  | .ldImm x nn => "LD " ++ regName x ++ ", " ++ hex8 nn
  | .addImm x nn => "ADD " ++ regName x ++ ", " ++ hex8 nn
  | .mov x y => "LD " ++ regName x ++ ", " ++ regName y
  | .orReg x y => "OR " ++ regName x ++ ", " ++ regName y
  | .andReg x y => "AND " ++ regName x ++ ", " ++ regName y
  | .xorReg x y => "XOR " ++ regName x ++ ", " ++ regName y
  | .addReg x y => "ADD " ++ regName x ++ ", " ++ regName y
  | .sub x y => "SUB " ++ regName x ++ ", " ++ regName y
  | .shr x => "SHR " ++ regName x
  | .subn x y => "SUBN " ++ regName x ++ ", " ++ regName y
  | .shl x => "SHL " ++ regName x
  | .unrec8 low => dataWord 0x8#4 low
  | .sneReg x y => "SNE " ++ regName x ++ ", " ++ regName y
  | .ldI nnn => "LD I, " ++ hex12 nnn
  | .jpV0 nnn => "JP V0, " ++ hex12 nnn
  | .rnd x nn => "RND " ++ regName x ++ ", " ++ hex8 nn
  | .drw x y n => "DRW " ++ regName x ++ ", " ++ regName y ++ ", " ++ hexDigit n.toNat
  | .skp x => "SKP " ++ regName x
  | .sknp x => "SKNP " ++ regName x
  | .unrecE low => dataWord 0xE#4 low
  | .ldVxDt x => "LD " ++ regName x ++ ", DT"
  | .waitkey x => "LD " ++ regName x ++ ", K"
  | .ldDtVx x => "LD DT, " ++ regName x
  | .ldStVx x => "LD ST, " ++ regName x
  | .addI x => "ADD I, " ++ regName x
  | .ldF x => "LD F, " ++ regName x
  | .bcd x => "LD B, " ++ regName x
  | .stm x => "LD [I], " ++ regName x
  | .ldm x => "LD " ++ regName x ++ ", [I]"
  | .unrecF low => dataWord 0xF#4 low

end Sys2Proof
end

