-- ==== Sys2Proof/Machine/State.lean ====
section
/-! DEFINITION. The state of the machine as plain data (spec/10_state.md R10 to R30) and the state after reset (R25, R201).
Faults are the four causes of spec/60_exceptions.md R171 with the information each records; a fault is entered into `status`
(R172), so it is part of the state. Three fields are the model's own: `inputs`, `ticks` and `events`. -/

namespace Sys2Proof.Machine

/-- The four faults (R171). Each is entered by `State.raise` into `status` as a next state, as R172 describes; no meaning ends in
`Host.Outcome.fault` (log entry 1). All four are safe: the spec chose a stop where the source gives no meaning (D6, D7, D9, D12). -/
inductive Fault where
  /-- code 1, raised by the fetch of any tick with `pc` above 0xFFE; records `pc`. Safe (D7). -/
  | fetchRange (pc : Word)
  /-- code 2, raised by DRW, BCD, STM, LDM; records the lowest address above 0xFFF the instruction would touch. Safe (D7). -/
  | memRange (addr : Nat)
  /-- code 3, raised by RET with `sp = 0`; records the address of the RET. Safe (D6). -/
  | stackUnderflow (pc : Word)
  /-- code 4, raised by SKP and SKNP with a register value above 15; records that value. Safe (D9). -/
  | keyRange (v : Byte)
  deriving DecidableEq, Repr

/-- Why a step gives no meaning. -/
inductive Refusal where
  /-- Raised only by an arm of `exec` whose instruction has no meaning yet: none has this arm. Safe. -/
  | notModelled (mnemonic : String)
  deriving DecidableEq, Repr

/-- `status` (R26). -/
inductive Status where
  | running
  /-- a tick sampled `quit` (R81) -/
  | stopped
  /-- FAULTED(code, info): the constructor of `Fault` is the code, its argument the info (R171, R172) -/
  | faulted (f : Fault)
  deriving DecidableEq, Repr

/-- The pixel grid: 32 rows of 64 pixels, `fb[r][c]` (R22, D21). -/
abbrev FrameBuffer := Vector (Vector Bool 64) 32

/-- Memory: cells that differ from the reset contents, addresses strictly rising (R21, R40). -/
abbrev Memory := List Host.Cell

/-- The environment's inputs for one tick (spec/00_scope.md R5): bit k of `keys` is key k held. -/
structure TickIn where
  quit : Bool
  keys : Word
  rand : Byte
  deriving DecidableEq, Repr

/-- The machine's outputs (R5): `Present(FB)` (R88) and `Diag(op, pc)` (R96). -/
inductive Event where
  | present (fb : FrameBuffer)
  | diag (op pc : Word)
  deriving DecidableEq, Repr

/-- The state of the machine. -/
structure State where
  /-- `V[0]` to `V[15]` (R10, R11) -/
  v : Vector Byte 16
  /-- `I` (R16) -/
  i : Word
  /-- the address of the instruction this tick will fetch (R13) -/
  pc : Word
  /-- the call stack (R17) -/
  stack : Vector Word 16
  /-- the number of the next free slot, 0 to 16 (R18) -/
  sp : Fin 17
  /-- the delay timer `DT` (R19) -/
  dt : Byte
  /-- the sound timer `ST` (R20) -/
  st : Byte
  /-- the 4096 bytes (R21) -/
  mem : Memory
  /-- the frame buffer (R22) -/
  fb : FrameBuffer
  /-- the frame buffer changed since last presented (R23) -/
  dirty : Bool
  /-- the key array as sampled in the last tick (R24) -/
  keys : Vector Bool 16
  /-- RUNNING, STOPPED or FAULTED (R26) -/
  status : Status
  /-- the model's own: the environment's inputs of this tick (the head) and the ticks to come; after its end the inputs are free
  (log entry 2) -/
  inputs : List TickIn
  /-- the model's own: completed ticks, the index of the free inputs (log entry 5) -/
  ticks : Nat
  /-- the model's own: the outputs so far, newest first (log entry 4) -/
  events : List Event
  deriving DecidableEq, Repr

/-- The state after reset with the default font and an empty program (R25, R201, R202). Memory lists nothing: an unlisted
address reads as the reset contents. -/
def State.reset : State where
  v := Vector.replicate 16 Config.resetByte
  i := Config.resetWord
  pc := 0x200#16
  stack := Vector.replicate 16 Config.resetWord
  sp := Config.resetSp
  dt := Config.resetByte
  st := Config.resetByte
  mem := []
  fb := Vector.replicate 32 (Vector.replicate 64 Config.resetPixel)
  dirty := Config.resetDirty
  keys := Vector.replicate 16 false
  status := .running
  inputs := []
  ticks := 0
  events := []

end Sys2Proof.Machine
end

