-- ==== Sys2Proof/Machine/Flags.lean ====
section
/-! DEFINITION. Every flag computation of the spec. The only flag is VF (R11, R132); each function gives the byte written to it. -/

namespace Sys2Proof.Machine

/-- 1 or 0. -/
def flagByte (b : Bool) : Byte := if b then 1#8 else 0#8

/-- ADD_REG (R126): 1 if the wrapped sum is less than `V[y]` as it is now. -/
def carryFlag (sum vy : Byte) : Byte := flagByte (sum < vy)

/-- SUB and SUBN (R127, R129): 1 if the minuend is strictly greater than the subtrahend. -/
def noBorrowFlag (minuend subtrahend : Byte) : Byte := flagByte (minuend > subtrahend)

/-- SHR (R128): bit 0. -/
def shrFlag (b : Byte) : Byte := b &&& 1#8

/-- SHL (R130): bit 7, as 0 or 1. -/
def shlFlag (b : Byte) : Byte := b >>> 7

/-- DRW (R152): the collision flag of the blit. -/
def collisionFlag (coll : Bool) : Byte := flagByte coll

end Sys2Proof.Machine
end

