-- ==== Sys2Proof/Machine/Ops.lean ====
section
/-! DEFINITION. The named operations over registers, stack, memory and frame buffer, and the one operation that enters a fault.
There is no return from a fault (R177). -/

namespace Sys2Proof.Machine

/-! ## Faults (spec/60_exceptions.md R171, R172) -/

/-- The cause code of R171. -/
def faultCode : Fault → Nat
  | .fetchRange _ => 1
  | .memRange _ => 2
  | .stackUnderflow _ => 3
  | .keyRange _ => 4

/-- The info recorded (R171). -/
def faultInfo : Fault → Nat
  | .fetchRange pc => pc.toNat
  | .memRange addr => addr
  | .stackUnderflow pc => pc.toNat
  | .keyRange v => v.toNat

/-- Fault entry (R172): `status` becomes FAULTED, nothing else is written. -/
def State.raise (s : State) (f : Fault) : State := { s with status := .faulted f }

/-- An instruction that may fault: on a fault only `raise` happens, otherwise the instruction's effect. -/
def orRaise {α : Type} (s : State) (r : Except Fault α) (effect : α → State) : Host.Outcome State Fault Refusal :=
  match r with
  | .ok a => .next (effect a)
  | .error f => .next (s.raise f)

/-! ## General registers (R10) -/

/-- Read `V[x]`. -/
def State.getV (s : State) (x : Nibble) : Byte := s.v[x.toNat]'x.isLt

/-- Write `V[x]`. -/
def State.setV (s : State) (x : Nibble) (b : Byte) : State := { s with v := s.v.set x.toNat b x.isLt }

/-- `V[0]` to `V[count - 1]`, ascending (R144). -/
def State.firstVs (s : State) (count : Nat) : List Byte :=
  (List.range count).map fun k => s.getV (BitVec.ofNat 4 k)

/-- Write the bytes to `V[k]`, `V[k + 1]`, and so on (R145). -/
def State.setVsFrom (s : State) (k : Nat) : List Byte → State
  | [] => s
  | b :: bs => (s.setV (BitVec.ofNat 4 k) b).setVsFrom (k + 1) bs

/-! ## Program counter (R13, R85) -/

/-- Write `pc`. -/
def State.setPc (s : State) (target : Word) : State := { s with pc := target }

/-- Advance `pc` by `k`, modulo 65536. -/
def State.advance (s : State) (k : Word) : State := s.setPc (s.pc + k)

/-- Skip step (R86): 4 when the condition holds, 2 when not. -/
def State.skipIf (s : State) (cond : Bool) : State := s.advance (if cond then 4#16 else 2#16)

/-! ## Call stack (R17, R18) -/

/-- Push (R102): slot `sp mod 16`, then `sp` is that slot's number plus 1. -/
def State.push (s : State) (a : Word) : State :=
  let k := s.sp.val % 16
  { s with
    stack := s.stack.set k a (Nat.mod_lt _ (by decide))
    sp := ⟨k + 1, Nat.succ_lt_succ (Nat.mod_lt _ (by decide))⟩ }

/-- Pop (R100): the popped slot value and the state with `sp` moved; the slot is not cleared. -/
def State.pop (s : State) : Except Fault (Word × State) :=
  match s.sp with
  | ⟨0, _⟩ =>
    match Config.underflowPolicy with
    | .fault => .error (.stackUnderflow s.pc)
    | .wrap => .ok (s.stack[15], { s with sp := 15 })
  | ⟨k + 1, h⟩ => .ok (s.stack[k]'(Nat.lt_of_succ_lt_succ h), { s with sp := ⟨k, Nat.lt_of_succ_lt h⟩ })

/-! ## Memory (spec/20_memory.md) -/

/-- What an unlisted address reads as: the reset contents (R25, R41): the default font at 0 to 79, zero elsewhere. -/
def unlistedByte (a : Nat) : Byte := if a < 80 then Config.font.getD a 0 else 0

/-- The canonical form: addresses strictly rising, inside memory, no cell equal to the reset contents. -/
abbrev Memory.wf (m : Memory) : Prop :=
  m.Pairwise (fun p q => p.1 < q.1) ∧ ∀ c ∈ m, c.1 ≤ 0xFFF ∧ c.2 ≠ unlistedByte c.1

/-- One byte of memory (R44). -/
def Memory.read (m : Memory) (a : Nat) : Byte := (m.lookup a).getD (unlistedByte a)

/-- Put a cell at its place in the rising order. -/
def Memory.insertCell (a : Nat) (b : Byte) : Memory → Memory
  | [] => [(a, b)]
  | c :: rest => if a < c.1 then (a, b) :: c :: rest else c :: Memory.insertCell a b rest

/-- Write one byte (R45). An address above 0xFFF does not exist: nothing is written there (the load drops such bytes, R43; an
instruction tests its range before, R46). Writing the reset contents removes the cell. -/
def Memory.write (m : Memory) (a : Nat) (b : Byte) : Memory :=
  if a ≤ 0xFFF then
    let others := m.filter (fun c => c.1 != a)
    if b = unlistedByte a then others else Memory.insertCell a b others
  else m

/-- Write bytes at `a`, `a + 1`, and so on, ascending (R48). -/
def Memory.writeAll (m : Memory) (a : Nat) : List Byte → Memory
  | [] => m
  | b :: bs => (m.write a b).writeAll (a + 1) bs

/-- The address an access goes to (`OOB_POLICY`): as it is, or modulo 4096 (R46). -/
def effectiveAddr (a : Nat) : Nat :=
  match Config.oobPolicy with
  | .fault => a
  | .wrap12 => a % 4096

/-- The range test of DRW, BCD, STM and LDM (R46, R171): the fault of an access to `len` bytes from `base`. Addresses are
mathematical integers; no byte means no fault. -/
def rangeFault (base len : Nat) : Option Fault :=
  match Config.oobPolicy with
  | .fault => if 0 < len ∧ base + len - 1 > 0xFFF then some (.memRange (max base 0x1000)) else none
  | .wrap12 => none

/-- Read `len` bytes from `base`, ascending, the whole range tested first. -/
def State.load (s : State) (base len : Nat) : Except Fault (List Byte) :=
  match rangeFault base len with
  | some f => .error f
  | none => .ok ((List.range len).map fun k => s.mem.read (effectiveAddr (base + k)))

/-- Store bytes one by one where their addresses go. -/
def Memory.storeAll (m : Memory) (base : Nat) : List Byte → Memory
  | [] => m
  | b :: bs => (m.write (effectiveAddr base) b).storeAll (base + 1) bs

/-- Store the bytes from `base`, ascending, the whole range tested before the first write (R46, R172). -/
def State.store (s : State) (base : Nat) (bs : List Byte) : Except Fault State :=
  match rangeFault base bs.length with
  | some f => .error f
  | none => .ok { s with mem := s.mem.storeAll base bs }

/-- The instruction fetch (R47): big-endian, at any parity (R49); a `pc` above 0xFFE faults. -/
def State.fetch (s : State) : Except Fault Word :=
  let a := s.pc.toNat
  let op := wordOfBytes (s.mem.read (effectiveAddr a)) (s.mem.read (effectiveAddr (a + 1)))
  match Config.oobPolicy with
  | .fault => if a > 0xFFE then .error (.fetchRange s.pc) else .ok op
  | .wrap12 => .ok op

/-! ## Frame buffer (R22, spec/45_display.md R151) -/

/-- The buffer with every pixel 0. -/
def blankFrame : FrameBuffer := Vector.replicate 32 (Vector.replicate 64 false)

/-- `FB[r][c]`. -/
def FrameBuffer.pixel (fb : FrameBuffer) (r : Fin 32) (c : Fin 64) : Bool := fb[r][c]

/-- `FB[r][c] <- FB[r][c] xor 1`. -/
def FrameBuffer.flip (fb : FrameBuffer) (r : Fin 32) (c : Fin 64) : FrameBuffer :=
  fb.set r (fb[r].set c (!fb[r][c]))

/-- The column a sprite bit lands on: `(X + i) mod 64`. -/
def blitCol (x i : Nat) : Fin 64 := ⟨(x + i) % 64, Nat.mod_lt _ (by decide)⟩

/-- The row a sprite byte lands on: `(Y + j) mod 32`. -/
def blitRow (y j : Nat) : Fin 32 := ⟨(y + j) % 32, Nat.mod_lt _ (by decide)⟩

/-- One bit of the blit (R151): `i = 0` is bit 7, the leftmost pixel. -/
def blitBit (x y j : Nat) (b : Byte) (acc : FrameBuffer × Bool) (i : Nat) : FrameBuffer × Bool :=
  if b.getLsbD (7 - i) then
    (FrameBuffer.flip acc.1 (blitRow y j) (blitCol x i), acc.2 || FrameBuffer.pixel acc.1 (blitRow y j) (blitCol x i))
  else acc

/-- One byte row of the blit: `i` from 0 to 7. -/
def blitByte (x y j : Nat) (b : Byte) (acc : FrameBuffer × Bool) : FrameBuffer × Bool :=
  (List.range 8).foldl (blitBit x y j b) acc

/-- The rows from number `j` on. -/
def blitFrom (x y : Nat) : Nat → List Byte → FrameBuffer × Bool → FrameBuffer × Bool
  | _, [], acc => acc
  | j, b :: bs, acc => blitFrom x y (j + 1) bs (blitByte x y j b acc)

/-- The blit (R151): the new pixels and the collision flag. -/
def blit (x y : Nat) (rows : List Byte) (fb : FrameBuffer) : FrameBuffer × Bool := blitFrom x y 0 rows (fb, false)

/-! ## Inputs and outputs (spec/00_scope.md R5) -/

/-- A tick's inputs when nothing fixes them: quit, keys and random byte are all free (log entries 2 and 3). -/
def freeTick (n : Nat) : TickIn := { quit := Config.quitIn n, keys := Config.keysIn n, rand := Config.randIn n }

/-- The environment's inputs of the current tick: the script's record, and free inputs once the script is used up (R5, R82, D14). -/
def State.tickIn (s : State) : TickIn :=
  match s.inputs with
  | t :: _ => t
  | [] => freeTick s.ticks

/-- Record an output. -/
def State.emit (s : State) (e : Event) : State := { s with events := e :: s.events }

end Sys2Proof.Machine
end

