-- ==== Sys2Proof/Machine/Operands.lean ====
section
/-! DEFINITION. Every operand form of the spec: immediates and their extension, the key index, the font address, the BCD digits,
the memory base, the key scan. -/

namespace Sys2Proof.Machine

/-- `nnn` zero-extended to 16 bits (R62). -/
def immNNN (nnn : Low12) : Word := nnn.setWidth 16

/-- A register value zero-extended to 16 bits (R103, R141). -/
def zext16 (b : Byte) : Word := b.setWidth 16

/-- The memory base of DRW, BCD, STM, LDM: `I` as an integer (R46, R58). -/
def State.base (s : State) : Nat := s.i.toNat

/-- How many registers STM and LDM move: `x + 1` (R144, R145). -/
def blockCount (x : Nibble) : Nat := x.toNat + 1

/-- `I` after STM or LDM: `(I + x + 1) mod 65536` (R144, R145). -/
def State.bumpI (s : State) (x : Nibble) : State := { s with i := s.i + x.setWidth 16 + 1#16 }

/-- The address of the font sprite of a register value: `V[x] * 5`, the whole 8 bits multiplied (R142). -/
def fontAddr (b : Byte) : Word := zext16 b * 5#16

/-- The third byte of BCD (R143, `BCD3_MODE`): `v div 100`, the hundreds digit again (log entry 12). -/
def bcdThird (b : Byte) : Byte :=
  match Config.bcd3Mode with
  | .div100 => b / 100#8
  | .mod10 => b % 10#8

/-- The three bytes BCD stores (R143). -/
def bcdBytes (b : Byte) : List Byte := [b / 100#8, (b / 10#8) % 10#8, bcdThird b]

/-- The key index of SKP and SKNP (R160, R161). -/
def keyIndex (b : Byte) : Except Fault (Fin 16) :=
  match Config.keyIdxPolicy with
  | .fault => if h : b.toNat < 16 then .ok ⟨b.toNat, h⟩ else .error (.keyRange b)
  | .low4 => .ok ⟨b.toNat % 16, Nat.mod_lt _ (by decide)⟩

/-- The key array of a sample: bit k is key k (R82). -/
def keysOfWord (w : Word) : Vector Bool 16 := Vector.ofFn fun k => w.getLsbD k.val

/-- The least held key, if one is held (R163). -/
def State.firstKey (s : State) : Option (Fin 16) := (List.finRange 16).find? fun k => s.keys[k]

end Sys2Proof.Machine
end

