-- ==== Sys2Proof/Machine/Alu.lean ====
section
/-! DEFINITION. Register loads, arithmetic, logic, shifts and random (spec/43_alu.md). Each meaning writes the registers in the order of its rule,
each write reading the registers as the write before left them (spec/00_scope.md R8, D3, log entry 14). -/

namespace Sys2Proof.Machine

/-- LD_IMM (R120). -/
def execLdImm (x : Nibble) (nn : Byte) (s : State) : Host.Outcome State Fault Refusal :=
  .next ((s.setV x nn).advance 2#16)

/-- ADD_IMM (R121): no flag. -/
def execAddImm (x : Nibble) (nn : Byte) (s : State) : Host.Outcome State Fault Refusal :=
  .next ((s.setV x (s.getV x + nn)).advance 2#16)

/-- MOV (R122). -/
def execMov (x y : Nibble) (s : State) : Host.Outcome State Fault Refusal :=
  .next ((s.setV x (s.getV y)).advance 2#16)

/-- OR (R123): VF unchanged. -/
def execOrReg (x y : Nibble) (s : State) : Host.Outcome State Fault Refusal :=
  .next ((s.setV x (s.getV x ||| s.getV y)).advance 2#16)

/-- AND (R124): VF unchanged. -/
def execAndReg (x y : Nibble) (s : State) : Host.Outcome State Fault Refusal :=
  .next ((s.setV x (s.getV x &&& s.getV y)).advance 2#16)

/-- XOR (R125): VF unchanged. -/
def execXorReg (x y : Nibble) (s : State) : Host.Outcome State Fault Refusal :=
  .next ((s.setV x (s.getV x ^^^ s.getV y)).advance 2#16)

/-- ADD_REG (R126): the sum first, then VF from the registers as they are now. -/
def execAddReg (x y : Nibble) (s : State) : Host.Outcome State Fault Refusal :=
  let s₁ := s.setV x (s.getV x + s.getV y)
  let s₂ := s₁.setV 15#4 (carryFlag (s₁.getV x) (s₁.getV y))
  .next (s₂.advance 2#16)

/-- SUB (R127): VF first, then the difference of the registers as they are now. -/
def execSub (x y : Nibble) (s : State) : Host.Outcome State Fault Refusal :=
  let s₁ := s.setV 15#4 (noBorrowFlag (s.getV x) (s.getV y))
  let s₂ := s₁.setV x (s₁.getV x - s₁.getV y)
  .next (s₂.advance 2#16)

/-- SHR (R128): VF first, then the logical shift of `V[x]` as it is now. -/
def execShr (x : Nibble) (s : State) : Host.Outcome State Fault Refusal :=
  let s₁ := s.setV 15#4 (shrFlag (s.getV x))
  let s₂ := s₁.setV x (s₁.getV x >>> 1)
  .next (s₂.advance 2#16)

/-- SUBN (R129): VF first, then the difference of the registers as they are now. -/
def execSubn (x y : Nibble) (s : State) : Host.Outcome State Fault Refusal :=
  let s₁ := s.setV 15#4 (noBorrowFlag (s.getV y) (s.getV x))
  let s₂ := s₁.setV x (s₁.getV y - s₁.getV x)
  .next (s₂.advance 2#16)

/-- SHL (R130): VF first, then the shift of `V[x]` as it is now. -/
def execShl (x : Nibble) (s : State) : Host.Outcome State Fault Refusal :=
  let s₁ := s.setV 15#4 (shlFlag (s.getV x))
  let s₂ := s₁.setV x (s₁.getV x <<< 1)
  .next (s₂.advance 2#16)

/-- RND (R131): `rand_in` of this tick is a free byte (D11, log entry 3). -/
def execRnd (x : Nibble) (nn : Byte) (s : State) : Host.Outcome State Fault Refusal :=
  .next ((s.setV x (nn &&& s.tickIn.rand)).advance 2#16)

end Sys2Proof.Machine
end

