-- ==== Sys2Proof/Machine/Display.lean ====
section
/-! DEFINITION. Clear and draw (spec/45_display.md). -/

namespace Sys2Proof.Machine

/-- CLS (R150). -/
def execCls (s : State) : Host.Outcome State Fault Refusal :=
  .next ({ s with fb := blankFrame, dirty := true }.advance 2#16)

/-- DRW (R152): coordinates and rows are read before anything is written; VF is the collision flag. -/
def execDrw (x y n : Nibble) (s : State) : Host.Outcome State Fault Refusal :=
  orRaise s (s.load s.base n.toNat) fun rows =>
    let drawn := blit (s.getV x).toNat (s.getV y).toNat rows s.fb
    ({ s with fb := drawn.1, dirty := true }.setV 15#4 (collisionFlag drawn.2)).advance 2#16

end Sys2Proof.Machine
end

