-- ==== Sys2Proof/Machine/Fallback.lean ====
section
/-! DEFINITION. The unrecognized fallback (spec/40_cycle.md R92 to R96): a diagnostic and the normal advance, nothing else. -/

namespace Sys2Proof.Machine

/-- What an unrecognized word does (R92 to R96): `emit Diag(op, pc)` with `pc` before the advance, then `pc + 2`. -/
def State.unrecognized (s : State) (op : Word) : State := (s.emit (.diag op s.pc)).advance 2#16

/-- UNREC_0 (R92). -/
def execUnrec0 (low : Low12) (s : State) : Host.Outcome State Fault Refusal :=
  .next (s.unrecognized (encNNN 0x0#4 low))

/-- UNREC_8 (R93). -/
def execUnrec8 (low : Low12) (s : State) : Host.Outcome State Fault Refusal :=
  .next (s.unrecognized (encNNN 0x8#4 low))

/-- UNREC_E (R94): `V[x]` is not read. -/
def execUnrecE (low : Low12) (s : State) : Host.Outcome State Fault Refusal :=
  .next (s.unrecognized (encNNN 0xE#4 low))

/-- UNREC_F (R95). -/
def execUnrecF (low : Low12) (s : State) : Host.Outcome State Fault Refusal :=
  .next (s.unrecognized (encNNN 0xF#4 low))

end Sys2Proof.Machine
end

