-- ==== Sys2Proof/Machine/Flow.lean ====
section
/-! DEFINITION. Control transfer (spec/41_flow.md). -/

namespace Sys2Proof.Machine

/-- RET (R100): the slot holds the CALL's own address, so 2 is added (D4, C2, log entry 15). -/
def execRet (s : State) : Host.Outcome State Fault Refusal :=
  orRaise s s.pop fun p => p.2.setPc (p.1 + 2#16)

/-- JP (R101). -/
def execJp (nnn : Low12) (s : State) : Host.Outcome State Fault Refusal :=
  .next (s.setPc (immNNN nnn))

/-- CALL (R102): pushes its own address (D4, log entry 15). -/
def execCall (nnn : Low12) (s : State) : Host.Outcome State Fault Refusal :=
  .next ((s.push s.pc).setPc (immNNN nnn))

/-- JP_V0 (R103). -/
def execJpV0 (nnn : Low12) (s : State) : Host.Outcome State Fault Refusal :=
  .next (s.setPc (immNNN nnn + zext16 (s.getV 0#4)))

end Sys2Proof.Machine
end

