-- ==== Sys2Proof/Machine/IndexMem.lean ====
section
/-! DEFINITION. The index register and memory transfer (spec/44_index_memory.md). Every range is tested before the first write (R46, R172). -/

namespace Sys2Proof.Machine

/-- LD_I (R140). -/
def execLdI (nnn : Low12) (s : State) : Host.Outcome State Fault Refusal :=
  .next ({ s with i := immNNN nnn }.advance 2#16)

/-- ADD_I (R141): modulo 65536, no flag. -/
def execAddI (x : Nibble) (s : State) : Host.Outcome State Fault Refusal :=
  .next ({ s with i := s.i + zext16 (s.getV x) }.advance 2#16)

/-- LD_F (R142). -/
def execLdF (x : Nibble) (s : State) : Host.Outcome State Fault Refusal :=
  .next ({ s with i := fontAddr (s.getV x) }.advance 2#16)

/-- BCD (R143): `I` unchanged. -/
def execBcd (x : Nibble) (s : State) : Host.Outcome State Fault Refusal :=
  orRaise s (s.store s.base (bcdBytes (s.getV x))) fun t => t.advance 2#16

/-- STM (R144). -/
def execStm (x : Nibble) (s : State) : Host.Outcome State Fault Refusal :=
  orRaise s (s.store s.base (s.firstVs (blockCount x))) fun t => (t.bumpI x).advance 2#16

/-- LDM (R145). -/
def execLdm (x : Nibble) (s : State) : Host.Outcome State Fault Refusal :=
  orRaise s (s.load s.base (blockCount x)) fun bytes => ((s.setVsFrom 0 bytes).bumpI x).advance 2#16

end Sys2Proof.Machine
end

