-- ==== Sys2Proof/Machine/KeysTimers.lean ====
section
/-! DEFINITION. Keys and timers (spec/46_keys_timers.md). The timers' own decrement is a phase of the tick (R89), not of an instruction. -/

namespace Sys2Proof.Machine

/-- SKP (R160). -/
def execSkp (x : Nibble) (s : State) : Host.Outcome State Fault Refusal :=
  orRaise s (keyIndex (s.getV x)) fun k => s.skipIf s.keys[k]

/-- SKNP (R161). -/
def execSknp (x : Nibble) (s : State) : Host.Outcome State Fault Refusal :=
  orRaise s (keyIndex (s.getV x)) fun k => s.skipIf (!s.keys[k])

/-- LD_VX_DT (R162). -/
def execLdVxDt (x : Nibble) (s : State) : Host.Outcome State Fault Refusal :=
  .next ((s.setV x s.dt).advance 2#16)

/-- The key scan of WAITKEY: the least held key goes to `V[x]`; with none held nothing changes. -/
def State.takeKey (s : State) (x : Nibble) : State :=
  match s.firstKey with
  | some k => (s.setV x (BitVec.ofNat 8 k.val)).advance 2#16
  | none => s

/-- WAITKEY (R163): with no key held `pc` stays, and the instruction is fetched again. -/
def execWaitkey (x : Nibble) (s : State) : Host.Outcome State Fault Refusal := .next (s.takeKey x)

/-- LD_DT_VX (R164). -/
def execLdDtVx (x : Nibble) (s : State) : Host.Outcome State Fault Refusal :=
  .next ({ s with dt := s.getV x }.advance 2#16)

/-- LD_ST_VX (R165). -/
def execLdStVx (x : Nibble) (s : State) : Host.Outcome State Fault Refusal :=
  .next ({ s with st := s.getV x }.advance 2#16)

end Sys2Proof.Machine
end

