-- ==== Sys2Proof/Machine/Tick.lean ====
section
/-! DEFINITION. The phases of a tick (spec/40_cycle.md R80 to R91), in the order of R80. -/

namespace Sys2Proof.Machine

/-- Phase 0 with `quit = 1` (R81): only `status` changes. -/
def State.quit (s : State) : State := { s with status := .stopped }

/-- Phase 1 (R82): the key array takes this tick's sample. -/
def State.sampleKeys (s : State) : State := { s with keys := keysOfWord s.tickIn.keys }

/-- Phase 3 (R88): a dirty frame buffer is presented, and is no longer dirty. -/
def State.present (s : State) : State :=
  if s.dirty then { s.emit (.present s.fb) with dirty := false } else s

/-- One timer's step (R89): down by one, not below zero. -/
def countDown (t : Byte) : Byte := if t = 0#8 then 0#8 else t - 1#8

/-- Phase 4 (R89): both timers (C3). -/
def State.countTimers (s : State) : State := { s with dt := countDown s.dt, st := countDown s.st }

/-- Phase 5 (R90): no machine state changes; the model moves on to the next tick's inputs (log entry 24). -/
def State.pace (s : State) : State := { s with inputs := s.inputs.tail, ticks := s.ticks + 1 }

/-- Phases 3 to 5, which a faulted tick does not perform (R91). -/
def State.finishTick (s : State) : State :=
  if s.status = .running then s.present.countTimers.pace else s

/-- Finish the tick of an instruction that answered a next state. -/
def finishOutcome (r : Host.Outcome State Fault Refusal) : Host.Outcome State Fault Refusal :=
  match r with
  | .next t => .next t.finishTick
  | .fault f => .fault f
  | .refused e => .refused e

/-- Phase 2 onward for a fetched word (R84 to R91). A word no row has (only when `Config.decode59Low` is `mustBeZero`) runs as the
unrecognized fallback (R68, log entry 28). -/
def runWord (op : Word) (s : State) : Host.Outcome State Fault Refusal :=
  match decodeWord op with
  | .ok i => finishOutcome (exec i s)
  | .error _ => .next (s.unrecognized op).finishTick

/-- A tick of a running machine (R80): quit, keys, instruction, present, timers, pace. -/
def tick (s : State) : Host.Outcome State Fault Refusal :=
  if s.tickIn.quit then .next s.quit
  else
    let s₁ := s.sampleKeys
    match s₁.fetch with
    | .ok op => runWord op s₁
    | .error f => .next (s₁.raise f)

/-- Place an instruction's bytes where the machine fetches next (R47). -/
def State.placeWord (s : State) (op : Word) : State := { s with mem := s.mem.writeAll s.pc.toNat (bytesOfWord op) }

/-- The script with no quit request in the tick to come; its keys and its random byte stay as they are. -/
def State.scriptWithoutQuit (s : State) : List TickIn := { s.tickIn with quit := false } :: s.inputs.tail

end Sys2Proof.Machine
end

