-- ==== Sys2Proof/Machine/Step.lean ====
section
/-! DEFINITION. One step of the machine: one tick (spec/40_cycle.md R80). -/

namespace Sys2Proof.Machine

/-- A tick with `status` other than RUNNING does nothing (R80, R173). -/
def step (s : State) : Host.Outcome State Fault Refusal :=
  match s.status with
  | .running => tick s
  | .stopped => .next s
  | .faulted _ => .next s

/-- `s` with the instruction of `nbits` bits `w` stored at `pc`. A tick fetches only when the machine runs and this tick's input asks
for no quit (R80, R81), so these two are set as well (log entry 27). -/
def State.withFetchWord (s : State) (nbits w : Nat) : State :=
  { s.placeWord (tableWord nbits w) with status := .running, inputs := s.scriptWithoutQuit }

end Sys2Proof.Machine
end

