-- ==== Sys2Proof/Machine/Boot.lean ====
section
/-! DEFINITION. Reset with the environment's arguments `FONT` and `PROGRAM` (spec/70_reset_and_hazards.md R200 to R202, spec/20_memory.md
R42, R43). `State.reset` is this state for the default font and the empty program. -/

namespace Sys2Proof.Machine

/-- Step (1) of R202: all 4096 bytes are zero. Only the font addresses differ from the unlisted contents. -/
def zeroedMemory : Memory := Memory.writeAll [] 0 (List.replicate 80 0#8)

/-- Steps (1) to (3) of R202: zeros, `FONT` at 0 to 79, `PROGRAM` from 0x200, bytes past 0xFFF dropped (R43). -/
def loadedMemory (font program : List Byte) : Memory :=
  (zeroedMemory.writeAll 0 (font.take 80)).writeAll 0x200 program

/-- The machine the host constructs from `FONT` and `PROGRAM` (R200, R202). -/
def State.boot (font program : List Byte) : State := { State.reset with mem := loadedMemory font program }

end Sys2Proof.Machine
end

