-- ==== Sys2Proof/Safety.lean ====
section
/-! DEFINITION. The terms claims are made in: what an instruction leaves unchanged, the tables the rules of spec/ give for faults, `pc` and
register writes, the pixels a sprite covers, safe runs, and the invariant of reachable states (R30). Nothing here is read by the
machine. -/

namespace Sys2Proof.Machine

/-! ## Frames -/

/-- No register. -/
def NoReg : Nibble → Prop := fun _ => False
/-- No byte of memory. -/
def NoByte : Nat → Prop := fun _ => False

/-- Every register outside `W` is unchanged. -/
def KeepsV (W : Nibble → Prop) (s t : State) : Prop := ∀ r, ¬ W r → t.getV r = s.getV r
/-- `I` is unchanged. -/
def KeepsIndex (s t : State) : Prop := t.i = s.i
/-- The call stack and `sp` are unchanged. -/
def KeepsStack (s t : State) : Prop := t.stack = s.stack ∧ t.sp = s.sp
/-- Both timers are unchanged. -/
def KeepsTimers (s t : State) : Prop := t.dt = s.dt ∧ t.st = s.st
/-- Every byte of memory outside `W` reads as before. -/
def KeepsMemory (W : Nat → Prop) (s t : State) : Prop := ∀ a, ¬ W a → t.mem.read a = s.mem.read a
/-- The frame buffer and `dirty` are unchanged. -/
def KeepsDisplay (s t : State) : Prop := t.fb = s.fb ∧ t.dirty = s.dirty
/-- The key array, `status`, the input script and the tick count are unchanged. -/
def KeepsRun (s t : State) : Prop :=
  t.keys = s.keys ∧ t.status = s.status ∧ t.inputs = s.inputs ∧ t.ticks = s.ticks
/-- No output was emitted. -/
def KeepsEvents (s t : State) : Prop := t.events = s.events

/-- Nothing changed but `pc` and the registers in `W`. -/
def OnlyRegs (W : Nibble → Prop) (s t : State) : Prop :=
  KeepsV W s t ∧ KeepsIndex s t ∧ KeepsStack s t ∧ KeepsTimers s t ∧ KeepsMemory NoByte s t ∧
    KeepsDisplay s t ∧ KeepsRun s t ∧ KeepsEvents s t

/-- Nothing changed but `pc`. -/
def OnlyPc (s t : State) : Prop := OnlyRegs NoReg s t

/-! ## The tables of the rules -/

/-- The words of a row decode to the instruction its fields give (R61, R64). -/
def RowDecodes (mask pattern : Word) (f : Word → Instr) : Prop :=
  ∀ op : Word, op &&& mask = pattern → decodeWord op = .ok (f op)

/-- The bits of a word that the instruction's row uses; the others are ignored (R67). -/
def usedBits : Instr → Word
  | .cls | .ret => 0xF0FF#16
  | .seReg _ _ | .sneReg _ _ => 0xFFF0#16
  | .shr _ | .shl _ => 0xFF0F#16
  | .unrec0 _ | .unrec8 _ | .unrecE _ | .unrecF _ => 0xFFFF#16
  | .jp _ | .call _ | .jpV0 _ | .ldI _ => 0xFFFF#16
  | .seImm _ _ | .sneImm _ _ | .ldImm _ _ | .addImm _ _ | .rnd _ _ => 0xFFFF#16
  | .mov _ _ | .orReg _ _ | .andReg _ _ | .xorReg _ _ | .addReg _ _ | .sub _ _ | .subn _ _ => 0xFFFF#16
  | .drw _ _ _ | .skp _ | .sknp _ | .ldVxDt _ | .waitkey _ | .ldDtVx _ | .ldStVx _ => 0xFFFF#16
  | .addI _ | .ldF _ | .bcd _ | .stm _ | .ldm _ => 0xFFFF#16

/-- An access to `len` bytes from `I` touches an address above 0xFFF (R171). -/
def outOfRange (s : State) (len : Nat) : Bool := decide (0 < len ∧ 0xFFF < s.i.toNat + len - 1)

/-- The MemRange fault of R171: the lowest address above 0xFFF. -/
def memRangeFault (s : State) (len : Nat) : Option Fault :=
  if outOfRange s len then some (.memRange (max s.i.toNat 0x1000)) else none

/-- The KeyRange fault of R171. -/
def keyRangeFault (s : State) (x : Nibble) : Option Fault :=
  if 15 < (s.getV x).toNat then some (.keyRange (s.getV x)) else none

/-- The fault an instruction raises in a state, by the table of R171. -/
def faultCondition : Instr → State → Option Fault
  | .drw _ _ n, s => memRangeFault s n.toNat
  | .bcd _, s => memRangeFault s 3
  | .stm x, s => memRangeFault s (x.toNat + 1)
  | .ldm x, s => memRangeFault s (x.toNat + 1)
  | .ret, s => if s.sp = 0 then some (.stackUnderflow s.pc) else none
  | .skp x, s => keyRangeFault s x
  | .sknp x, s => keyRangeFault s x
  | .cls, _ | .jp _, _ | .call _, _ | .jpV0 _, _ | .ldI _, _ => none
  | .seImm _ _, _ | .sneImm _ _, _ | .seReg _ _, _ | .sneReg _ _, _ => none
  | .ldImm _ _, _ | .addImm _ _, _ | .rnd _ _, _ | .mov _ _, _ | .orReg _ _, _ | .andReg _ _, _ | .xorReg _ _, _ => none
  | .addReg _ _, _ | .sub _ _, _ | .subn _ _, _ | .shr _, _ | .shl _, _ => none
  | .ldVxDt _, _ | .waitkey _, _ | .ldDtVx _, _ | .ldStVx _, _ | .addI _, _ | .ldF _, _ => none
  | .unrec0 _, _ | .unrec8 _, _ | .unrecE _, _ | .unrecF _, _ => none

/-- Key number `k` is held; a number above 15 names no key. -/
def keyHeld (s : State) (k : Nat) : Bool := s.keys.toList.getD k false

/-- 4 when the condition holds, 2 when not (R86). -/
def skipStep (c : Bool) : Nat := if c then 4 else 2

/-- Where an instruction that raises no fault leaves `pc`, before the reduction modulo 65536 (R14). -/
def nextPc (i : Instr) (s : State) : Nat :=
  match i with
  | .jp nnn => nnn.toNat
  | .call nnn => nnn.toNat
  | .jpV0 nnn => nnn.toNat + (s.getV 0#4).toNat
  | .ret => (s.stack.toList.getD (s.sp.val - 1) 0).toNat + 2
  | .seImm x nn => s.pc.toNat + skipStep (s.getV x == nn)
  | .sneImm x nn => s.pc.toNat + skipStep (s.getV x != nn)
  | .seReg x y => s.pc.toNat + skipStep (s.getV x == s.getV y)
  | .sneReg x y => s.pc.toNat + skipStep (s.getV x != s.getV y)
  | .skp x => s.pc.toNat + skipStep (keyHeld s (s.getV x).toNat)
  | .sknp x => s.pc.toNat + skipStep (!keyHeld s (s.getV x).toNat)
  | .waitkey _ => if s.keys.toList.contains true then s.pc.toNat + 2 else s.pc.toNat
  | .cls | .ldI _ | .ldImm _ _ | .addImm _ _ | .rnd _ _ | .mov _ _ | .orReg _ _ | .andReg _ _ | .xorReg _ _ => s.pc.toNat + 2
  | .addReg _ _ | .sub _ _ | .subn _ _ | .shr _ | .shl _ | .drw _ _ _ => s.pc.toNat + 2
  | .ldVxDt _ | .ldDtVx _ | .ldStVx _ | .addI _ | .ldF _ | .bcd _ | .stm _ | .ldm _ => s.pc.toNat + 2
  | .unrec0 _ | .unrec8 _ | .unrecE _ | .unrecF _ => s.pc.toNat + 2

/-- The registers an instruction may write (R11, R12). -/
def writesV : Instr → Nibble → Prop
  | .ldImm x _, r | .addImm x _, r | .rnd x _, r => r = x
  | .mov x _, r | .orReg x _, r | .andReg x _, r | .xorReg x _, r => r = x
  | .addReg x _, r | .sub x _, r | .subn x _, r => r = x ∨ r = 15#4
  | .shr x, r | .shl x, r => r = x ∨ r = 15#4
  | .drw _ _ _, r => r = 15#4
  | .ldVxDt x, r | .waitkey x, r => r = x
  | .ldm x, r => r.toNat ≤ x.toNat
  | .cls, _ | .ret, _ | .jp _, _ | .call _, _ | .jpV0 _, _ | .ldI _, _ => False
  | .seImm _ _, _ | .sneImm _ _, _ | .seReg _ _, _ | .sneReg _ _, _ | .skp _, _ | .sknp _, _ => False
  | .ldDtVx _, _ | .ldStVx _, _ | .addI _, _ | .ldF _, _ | .bcd _, _ | .stm _, _ => False
  | .unrec0 _, _ | .unrec8 _, _ | .unrecE _, _ | .unrecF _, _ => False

/-! ## Sprites (R151) -/

/-- A set bit of the sprite `rows` drawn at column `x`, row `y` lands on pixel `(c, r)`. -/
def spriteCovers (x y : Nat) (rows : List Byte) (r : Fin 32) (c : Fin 64) : Prop :=
  ∃ j i, j < rows.length ∧ i < 8 ∧ (rows.getD j 0).getLsbD (7 - i) = true ∧
    (x + i) % 64 = c.val ∧ (y + j) % 32 = r.val

/-- A set bit of the sprite lands on a set pixel (R153 (c)). -/
def spriteCollides (x y : Nat) (rows : List Byte) (fb : FrameBuffer) : Prop :=
  ∃ r c, spriteCovers x y rows r c ∧ FrameBuffer.pixel fb r c = true

/-! ## Safe runs and the invariant (R30) -/

/-- The machine has faulted: not a final state of a run (R173). -/
def State.isFaulted (s : State) : Prop := ∃ f, s.status = .faulted f

/-- `k` ticks from `s` reach no fault. -/
def SafeRun (k : Nat) (s : State) : Prop := ∃ t, Sys2Proof.core.run k s = .next t ∧ ¬ State.isFaulted t

/-- The word is in an UNREC row (R65). -/
def isUnrecWord (op : Word) : Prop :=
  ∃ i, decodeWord op = .ok i ∧ mnemonicOf i ∈ ["UNREC_0", "UNREC_8", "UNREC_E", "UNREC_F"]

/-- The state in which a fault was raised is the state the machine stopped in (R171, R172). -/
def faultFits (s : State) : Fault → Prop
  | .fetchRange a => a = s.pc ∧ 0xFFE < s.pc.toNat
  | .memRange a => a = max s.i.toNat 0x1000 ∧ 0xFFF < s.i.toNat + 15
  | .stackUnderflow a => a = s.pc ∧ s.sp = 0
  | .keyRange v => 15 < v.toNat ∧ ∃ x, s.getV x = v

/-- What holds between ticks in every reachable state (R30, R23, R13). -/
structure Inv (s : State) : Prop where
  /-- memory is in canonical form, within 4096 bytes -/
  memory : s.mem.wf
  /-- `dirty` is 0 between ticks (R23) -/
  clean : s.dirty = false
  /-- a live slot holds the address of a CALL that was fetched (R30, R102) -/
  slots : ∀ k : Fin 16, k.val < s.sp.val → s.stack[k].toNat ≤ 0xFFE
  /-- `pc` never passes the largest target of JP_V0 (R103), so its reduction never matters (R13) -/
  pcBound : s.pc.toNat ≤ 0x10FE
  /-- a recorded fault fits the frozen state -/
  faultRecord : ∀ f, s.status = .faulted f → faultFits s f
  /-- every diagnostic is of an unrecognized word at a fetchable address (R96) -/
  diagnostics : ∀ op a, Event.diag op a ∈ s.events → isUnrecWord op ∧ a.toNat ≤ 0xFFE

end Sys2Proof.Machine
end

