-- ==== Sys2Proof/Certificates/Slice0/Obligations.lean ====
section
/-! DEFINITION. The statements for the provers, each from a numbered rule of spec/ or the sections it names. `exec i s` is phase 2 of a
tick after fetch and decode; `step` is the whole tick. -/

open Sys2Proof Sys2Proof.Machine

/-! ## Reset and boot -/

/-- R25, R201 with D2, D12, D18: the state after reset. The zeros of D2 (log entry 6), the default font (log entry 7) and the three fields of
the model's own (log entries 2, 4, 5) are choices. -/
def Obligations.ResetHoldsTheTableOfR25 : Prop :=
  State.reset.pc = 0x200#16 ∧ (∀ x, State.reset.getV x = 0#8) ∧ State.reset.i = 0#16 ∧ State.reset.sp = 0 ∧
  (∀ k : Fin 16, State.reset.stack[k] = 0#16) ∧ State.reset.dt = 0#8 ∧ State.reset.st = 0#8 ∧
  (∀ a, State.reset.mem.read a = if a < 80 then Config.font.getD a 0 else 0) ∧
  (∀ r c, FrameBuffer.pixel State.reset.fb r c = false) ∧ State.reset.dirty = false ∧
  (∀ k : Fin 16, State.reset.keys[k] = false) ∧ State.reset.status = .running ∧
  State.reset.inputs = [] ∧ State.reset.ticks = 0 ∧ State.reset.events = []

/-- R43, R202 with D2: the memory and the registers of a machine constructed from any 80-byte FONT and any PROGRAM; with an empty program the
first fetch reads 0x0000. That every other field is as in State.reset rests on choices: the zeros of D2 (log entry 6) and the three fields of the
model's own (log entries 2, 4, 5). So does the zero an address above 0xFFF reads as (log entry 25). -/
def Obligations.BootLoadsFontAndProgram : Prop :=
  ∀ font program : List Byte, font.length = 80 →
    (∀ a, (State.boot font program).mem.read a =
      if a < 80 then font.getD a 0
      else if 0x200 ≤ a ∧ a < 0x200 + program.length ∧ a ≤ 0xFFF then program.getD (a - 0x200) 0
      else 0) ∧
    State.boot font program = { State.reset with mem := (State.boot font program).mem } ∧
    (State.boot font program).status = .running ∧
    (State.boot font []).fetch = .ok 0#16

/-- R25, R202: a machine constructed from any FONT and PROGRAM meets the invariant. -/
def Obligations.BootMeetsTheInvariant : Prop :=
  ∀ font program : List Byte, Inv (State.boot font program)

/-- The invariant holds after reset. -/
def Obligations.ResetMeetsTheInvariant : Prop := Inv State.reset

/-! ## The whole machine -/

/-- R30, R13, R23: every step keeps the invariant. -/
def Obligations.StepKeepsTheInvariant : Prop :=
  ∀ s t : State, Inv s → step s = .next t → Inv t

/-- R65, R172, R173: every step of every state answers a next state; decoding never aborts and a fault is a state. -/
def Obligations.StepAlwaysAnswersANextState : Prop := ∀ s : State, ∃ t, step s = .next t

/-- R171, R172, R174 (D6, D7, D9, D12): an instruction faults exactly when the table of R171 says so, with that code and info, and then
writes `status` alone; otherwise it completes and `status` is unchanged. -/
def Obligations.FaultTableDecidesEveryInstruction : Prop :=
  ∀ (i : Instr) (s : State),
    (∀ f, faultCondition i s = some f → exec i s = .next { s with status := .faulted f }) ∧
    (faultCondition i s = none → ∃ t, exec i s = .next t ∧ t.status = s.status)

/-- R14: how each instruction leaves `pc`, for every instruction that raises no fault. -/
def Obligations.EachInstructionLeavesPcAsRuled : Prop :=
  ∀ (i : Instr) (s : State), faultCondition i s = none →
    ∃ t, exec i s = .next t ∧ t.pc.toNat = nextPc i s % 65536

/-- R11, R12: an instruction writes no general register but those the list of R12 gives it. -/
def Obligations.OnlyListedRegistersAreWritten : Prop :=
  ∀ (i : Instr) (s t : State), exec i s = .next t → KeepsV (writesV i) s t

/-- R16 to R24, R52, R58: `I`, the stack, the timers, memory, the frame buffer, `dirty` and the outputs change only in the instructions
the rules name, and no instruction changes the key array, the input script or the tick count. -/
def Obligations.OnlyNamedInstructionsWriteEachState : Prop :=
  ∀ (i : Instr) (s t : State), exec i s = .next t →
    (t.i ≠ s.i → mnemonicOf i ∈ ["LD_I", "ADD_I", "LD_F", "STM", "LDM"]) ∧
    (t.stack ≠ s.stack → mnemonicOf i = "CALL") ∧
    (t.sp ≠ s.sp → mnemonicOf i ∈ ["CALL", "RET"]) ∧
    (t.dt ≠ s.dt → mnemonicOf i = "LD_DT_VX") ∧
    (t.st ≠ s.st → mnemonicOf i = "LD_ST_VX") ∧
    ((∃ a, t.mem.read a ≠ s.mem.read a) → mnemonicOf i ∈ ["BCD", "STM"]) ∧
    (t.fb ≠ s.fb → mnemonicOf i ∈ ["CLS", "DRW"]) ∧
    (t.dirty ≠ s.dirty → mnemonicOf i ∈ ["CLS", "DRW"]) ∧
    (t.events ≠ s.events → mnemonicOf i ∈ ["UNREC_0", "UNREC_8", "UNREC_E", "UNREC_F"]) ∧
    t.keys = s.keys ∧ t.inputs = s.inputs ∧ t.ticks = s.ticks

/-- R20, R23, R28: no instruction reads ST, `dirty` or the outputs: two states that differ only there give results that agree in
everything a program can see. -/
def Obligations.HiddenStateIsNeverRead : Prop :=
  ∀ (i : Instr) (s t : State) (st' : Byte) (dirty' : Bool) (events' : List Event), exec i s = .next t →
    ∃ t', exec i { s with st := st', dirty := dirty', events := events' } = .next t' ∧
      t'.v = t.v ∧ t'.i = t.i ∧ t'.pc = t.pc ∧ t'.stack = t.stack ∧ t'.sp = t.sp ∧ t'.dt = t.dt ∧
      t'.mem = t.mem ∧ t'.fb = t.fb ∧ t'.keys = t.keys ∧ t'.status = t.status

/-! ## Decode and encode -/

/-- R61, R64: every well-formed instruction decodes from its own word, and from its two bytes with whatever follows them. -/
def Obligations.DecodeOfEncodeIsTheInstruction : Prop :=
  ∀ (i : Instr), i.WellFormed →
    decodeWord (encode i) = .ok i ∧ ∀ rest, decode (bytesOfWord (encode i) ++ rest) = .ok (i, rest)

/-- R64: the decoder selects, for every word, the matching row with the most mask bits, and the decoded instruction is well-formed. -/
def Obligations.DecodeSelectsTheMostSpecificRow : Prop :=
  ∀ op : Word, ∃ i, decodeWord op = .ok i ∧ i.WellFormed ∧
    ∃ r ∈ opcodeTable, r.mnemonic = mnemonicOf i ∧ r.matchesWord op = true ∧
      ∀ q ∈ opcodeTable, q.matchesWord op = true → q ≠ r → q.specificity < r.specificity

/-- R67 (D5, log entry 13): encoding what a word decodes to gives the word back with its ignored bits cleared, so no used bit is dropped and
an ignored bit changes nothing. The four UNREC rows keep their 12 low bits here, which R67 counts as ignored: the diagnostic carries the
whole word (D15, log entry 19). -/
def Obligations.IgnoredBitsAreTheOnlyOnesLost : Prop :=
  ∀ op : Word, ∃ i, decodeWord op = .ok i ∧ encode i = op &&& usedBits i ∧ decodeWord (op &&& usedBits i) = .ok i

/-- R61, R64: words written out from the encodings decode to their instructions (a sanity check). -/
def Obligations.WrittenOutWordsDecode : Prop :=
  decodeWord 0x00E0#16 = .ok .cls ∧ decodeWord 0x6103#16 = .ok (.ldImm 1 0x03) ∧ decodeWord 0x8014#16 = .ok (.addReg 0 1) ∧
  decodeWord 0xDAB2#16 = .ok (.drw 0xA 0xB 2) ∧ decodeWord 0xE29E#16 = .ok (.skp 2) ∧ decodeWord 0xF355#16 = .ok (.stm 3) ∧
  decodeWord 0xB300#16 = .ok (.jpV0 0x300) ∧ decodeWord 0x8AB8#16 = .ok (.unrec8 0xAB8)

/-! ## The tick -/

/-- R47: the fetch is big-endian at `pc` and `pc + 1`, and faults above 0xFFE. -/
def Obligations.FetchIsBigEndianAndBounded : Prop :=
  ∀ s : State,
    (0xFFE < s.pc.toNat → s.fetch = .error (.fetchRange s.pc)) ∧
    (s.pc.toNat ≤ 0xFFE → ∃ op, s.fetch = .ok op ∧
      op.toNat = (s.mem.read s.pc.toNat).toNat * 256 + (s.mem.read (s.pc.toNat + 1)).toNat)

/-- R80, R83 to R85: in a running tick without a quit request, the instruction the bytes at `pc` decode to is executed on the state
with this tick's keys, and `finishOutcome` ends the tick. -/
def Obligations.StepRunsTheDecodedInstruction : Prop :=
  ∀ (s : State) (i : Instr), s.status = .running → s.tickIn.quit = false → s.pc.toNat ≤ 0xFFE → i.WellFormed →
    decode [s.mem.read s.pc.toNat, s.mem.read (s.pc.toNat + 1)] = .ok (i, []) →
    step s = finishOutcome (exec i { s with keys := keysOfWord s.tickIn.keys })

/-- R80, R173: a tick of a machine that does not run changes nothing. -/
def Obligations.StoppedOrFaultedMachineStands : Prop :=
  ∀ s : State, s.status ≠ .running → step s = .next s

/-- R81 (D17): a tick that samples `quit` changes `status` alone. -/
def Obligations.QuitTickOnlyStops : Prop :=
  ∀ s : State, s.status = .running → s.tickIn.quit = true → step s = .next { s with status := .stopped }

/-- R91, R171 (D7, D12): a tick whose fetch leaves memory samples the keys, records FetchRange and does nothing else. -/
def Obligations.FetchFaultTickRecordsFetchRange : Prop :=
  ∀ s : State, s.status = .running → s.tickIn.quit = false → 0xFFE < s.pc.toNat →
    step s = .next { s with keys := keysOfWord s.tickIn.keys, status := .faulted (.fetchRange s.pc) }

/-- 40_cycle.md section 3 (R88, R89): a tick whose instruction completed ends with both timers counted down once, not below zero, with a
dirty buffer presented and `dirty` 0, and everything else as the instruction left it but for the model's own script. The record `events` of
the outputs is the model's choice (log entry 4). -/
def Obligations.EveryCompletedTickCountsBothTimers : Prop :=
  ∀ (s : State) (i : Instr) (t : State), s.status = .running → s.tickIn.quit = false → s.pc.toNat ≤ 0xFFE → i.WellFormed →
    decode [s.mem.read s.pc.toNat, s.mem.read (s.pc.toNat + 1)] = .ok (i, []) →
    exec i { s with keys := keysOfWord s.tickIn.keys } = .next t → t.status = .running →
    ∃ u, step s = .next u ∧ u.dt.toNat = t.dt.toNat - 1 ∧ u.st.toNat = t.st.toNat - 1 ∧
      u.dirty = false ∧ u.events = (if t.dirty then .present t.fb :: t.events else t.events) ∧
      u.v = t.v ∧ u.i = t.i ∧ u.pc = t.pc ∧ u.stack = t.stack ∧ u.sp = t.sp ∧ u.mem = t.mem ∧ u.fb = t.fb ∧
      u.keys = t.keys ∧ u.status = t.status

/-- R91 (D12): a tick whose instruction faulted ends with the fault entered: no present, no timer step. -/
def Obligations.FaultedTickSkipsPresentAndTimers : Prop :=
  ∀ (s : State) (i : Instr) (f : Fault), s.status = .running → s.tickIn.quit = false → s.pc.toNat ≤ 0xFFE → i.WellFormed →
    decode [s.mem.read s.pc.toNat, s.mem.read (s.pc.toNat + 1)] = .ok (i, []) →
    faultCondition i { s with keys := keysOfWord s.tickIn.keys } = some f →
    step s = .next { s with keys := keysOfWord s.tickIn.keys, status := .faulted f }

/-- R88: from a clean buffer, exactly CLS and a DRW that does not fault leave it dirty, so exactly their ticks present. -/
def Obligations.ExactlyClsAndDrwMakeTheBufferDirty : Prop :=
  ∀ (i : Instr) (s : State), s.dirty = false → faultCondition i s = none →
    ∃ t, exec i s = .next t ∧ (t.dirty = true ↔ mnemonicOf i = "CLS" ∨ mnemonicOf i = "DRW")

/-! ## Control transfer -/

/-- R101: JP. -/
def Obligations.JpSetsPc : Prop :=
  RowDecodes 0xF000#16 0x1000#16 (fun op => .jp (fieldNNN op)) ∧
  ∀ (nnn : Low12) (s : State), ∃ t, exec (.jp nnn) s = .next t ∧ t.pc.toNat = nnn.toNat ∧ OnlyPc s t

/-- R103: JP_V0; the sum is not reduced to 12 bits. -/
def Obligations.JpV0AddsV0 : Prop :=
  RowDecodes 0xF000#16 0xB000#16 (fun op => .jpV0 (fieldNNN op)) ∧
  ∀ (nnn : Low12) (s : State), ∃ t, exec (.jpV0 nnn) s = .next t ∧ t.pc.toNat = nnn.toNat + (s.getV 0#4).toNat ∧ OnlyPc s t

/-- R102, R18, R104 (D4, D6): CALL pushes its own address into slot `sp mod 16`, which is slot 0 when the stack is full. -/
def Obligations.CallPushesItsOwnAddress : Prop :=
  ∀ (nnn : Low12) (s : State), ∃ t, exec (.call nnn) s = .next t ∧ t.pc.toNat = nnn.toNat ∧
    (∀ k : Fin 16, t.stack[k] = if k.val = s.sp.val % 16 then s.pc else s.stack[k]) ∧
    t.sp.val = (if s.sp.val < 16 then s.sp.val + 1 else 1) ∧
    KeepsV NoReg s t ∧ KeepsIndex s t ∧ KeepsTimers s t ∧ KeepsMemory NoByte s t ∧ KeepsDisplay s t ∧ KeepsRun s t ∧ KeepsEvents s t

/-- R100 (D4, D6): RET on a non-empty stack pops the newest slot and continues after the CALL it names; the slot is not cleared. -/
def Obligations.RetPopsTheNewestSlot : Prop :=
  ∀ (s : State) (k : Fin 16), s.sp.val = k.val + 1 → ∃ t, exec .ret s = .next t ∧
    t.pc.toNat = (s.stack[k].toNat + 2) % 65536 ∧ t.sp.val = k.val ∧ t.stack = s.stack ∧
    KeepsV NoReg s t ∧ KeepsIndex s t ∧ KeepsTimers s t ∧ KeepsMemory NoByte s t ∧ KeepsDisplay s t ∧ KeepsRun s t ∧ KeepsEvents s t

/-- R100 with C2, D4: CALL then RET continues at the instruction after the CALL, at every depth; below 16 frames `sp` is as before. -/
def Obligations.CallThenRetContinuesAfterTheCall : Prop :=
  ∀ (nnn : Low12) (s t : State), exec (.call nnn) s = .next t → ∃ u, exec .ret t = .next u ∧
    u.pc.toNat = (s.pc.toNat + 2) % 65536 ∧ (s.sp.val < 16 → u.sp = s.sp) ∧
    KeepsV NoReg s u ∧ KeepsIndex s u ∧ KeepsMemory NoByte s u

/-! ## Skips -/

/-- R110, R111: the skips against an immediate. -/
def Obligations.SkipsOnAnImmediate : Prop :=
  RowDecodes 0xF000#16 0x3000#16 (fun op => .seImm (fieldX op) (fieldNN op)) ∧
  RowDecodes 0xF000#16 0x4000#16 (fun op => .sneImm (fieldX op) (fieldNN op)) ∧
  ∀ (x : Nibble) (nn : Byte) (s : State),
    (∃ t, exec (.seImm x nn) s = .next t ∧ OnlyPc s t ∧
      t.pc.toNat = (s.pc.toNat + if s.getV x = nn then 4 else 2) % 65536) ∧
    (∃ t, exec (.sneImm x nn) s = .next t ∧ OnlyPc s t ∧
      t.pc.toNat = (s.pc.toNat + if s.getV x = nn then 2 else 4) % 65536)

/-- R112, R113: the skips on two registers; the low nibble of the word is not examined. -/
def Obligations.SkipsOnTwoRegisters : Prop :=
  RowDecodes 0xF000#16 0x5000#16 (fun op => .seReg (fieldX op) (fieldY op)) ∧
  RowDecodes 0xF000#16 0x9000#16 (fun op => .sneReg (fieldX op) (fieldY op)) ∧
  ∀ (x y : Nibble) (s : State),
    (∃ t, exec (.seReg x y) s = .next t ∧ OnlyPc s t ∧
      t.pc.toNat = (s.pc.toNat + if s.getV x = s.getV y then 4 else 2) % 65536) ∧
    (∃ t, exec (.sneReg x y) s = .next t ∧ OnlyPc s t ∧
      t.pc.toNat = (s.pc.toNat + if s.getV x = s.getV y then 2 else 4) % 65536)

/-! ## Loads, arithmetic, logic, shifts, random -/

/-- R120: LD_IMM. -/
def Obligations.LdImmLoadsTheImmediate : Prop :=
  RowDecodes 0xF000#16 0x6000#16 (fun op => .ldImm (fieldX op) (fieldNN op)) ∧
  ∀ (x : Nibble) (nn : Byte) (s : State), ∃ t, exec (.ldImm x nn) s = .next t ∧
    t.getV x = nn ∧ t.pc = s.pc + 2#16 ∧ OnlyRegs (· = x) s t

/-- R121: ADD_IMM wraps modulo 256 and writes no flag. -/
def Obligations.AddImmWrapsAndSetsNoFlag : Prop :=
  RowDecodes 0xF000#16 0x7000#16 (fun op => .addImm (fieldX op) (fieldNN op)) ∧
  ∀ (x : Nibble) (nn : Byte) (s : State), ∃ t, exec (.addImm x nn) s = .next t ∧
    (t.getV x).toNat = ((s.getV x).toNat + nn.toNat) % 256 ∧ t.pc = s.pc + 2#16 ∧ OnlyRegs (· = x) s t

/-- R122: MOV. -/
def Obligations.MovCopiesTheRegister : Prop :=
  RowDecodes 0xF00F#16 0x8000#16 (fun op => .mov (fieldX op) (fieldY op)) ∧
  ∀ (x y : Nibble) (s : State), ∃ t, exec (.mov x y) s = .next t ∧
    t.getV x = s.getV y ∧ t.pc = s.pc + 2#16 ∧ OnlyRegs (· = x) s t

/-- R123, R124, R125: OR, AND, XOR, bit by bit; VF is unchanged unless it is the destination. -/
def Obligations.LogicIsBitwiseAndSetsNoFlag : Prop :=
  RowDecodes 0xF00F#16 0x8001#16 (fun op => .orReg (fieldX op) (fieldY op)) ∧
  RowDecodes 0xF00F#16 0x8002#16 (fun op => .andReg (fieldX op) (fieldY op)) ∧
  RowDecodes 0xF00F#16 0x8003#16 (fun op => .xorReg (fieldX op) (fieldY op)) ∧
  ∀ (x y : Nibble) (s : State),
    (∃ t, exec (.orReg x y) s = .next t ∧ t.pc = s.pc + 2#16 ∧ OnlyRegs (· = x) s t ∧
      ∀ k, k < 8 → (t.getV x).getLsbD k = ((s.getV x).getLsbD k || (s.getV y).getLsbD k)) ∧
    (∃ t, exec (.andReg x y) s = .next t ∧ t.pc = s.pc + 2#16 ∧ OnlyRegs (· = x) s t ∧
      ∀ k, k < 8 → (t.getV x).getLsbD k = ((s.getV x).getLsbD k && (s.getV y).getLsbD k)) ∧
    (∃ t, exec (.xorReg x y) s = .next t ∧ t.pc = s.pc + 2#16 ∧ OnlyRegs (· = x) s t ∧
      ∀ k, k < 8 → (t.getV x).getLsbD k = ((s.getV x).getLsbD k ^^ (s.getV y).getLsbD k))

/-- R126 (D3): ADD_REG. VF is the true carry of the addition unless `x = y`, where it is 0; with `x = F` the sum is lost. -/
def Obligations.AddRegWrapsAndSetsCarry : Prop :=
  ∀ (x y : Nibble) (s : State), ∃ t, exec (.addReg x y) s = .next t ∧
    (x ≠ 15#4 → (t.getV x).toNat = ((s.getV x).toNat + (s.getV y).toNat) % 256) ∧
    (t.getV 15#4).toNat = (if x ≠ y ∧ 256 ≤ (s.getV x).toNat + (s.getV y).toNat then 1 else 0) ∧
    t.pc = s.pc + 2#16 ∧ OnlyRegs (fun r => r = x ∨ r = 15#4) s t

/-- R127 (D3): SUB, with `f` the strict comparison before the subtraction, in the five cases (a) to (e) of the rule. -/
def Obligations.SubSetsStrictNoBorrow : Prop :=
  ∀ (x y : Nibble) (s : State) (f : Nat), f = (if (s.getV y).toNat < (s.getV x).toNat then 1 else 0) →
    ∃ t, exec (.sub x y) s = .next t ∧
    (x ≠ 15#4 → (t.getV 15#4).toNat = f ∧
      (t.getV x).toNat = ((s.getV x).toNat + 256 - (if y = 15#4 then f else (s.getV y).toNat)) % 256) ∧
    (x = 15#4 → y ≠ 15#4 → (t.getV 15#4).toNat = (f + 256 - (s.getV y).toNat) % 256) ∧
    (x = 15#4 → y = 15#4 → t.getV 15#4 = 0#8) ∧
    t.pc = s.pc + 2#16 ∧ OnlyRegs (fun r => r = x ∨ r = 15#4) s t

/-- R129 (D3): SUBN, with `f` the strict comparison before the subtraction, in the five cases (a) to (e) of the rule. -/
def Obligations.SubnSetsStrictNoBorrow : Prop :=
  ∀ (x y : Nibble) (s : State) (f : Nat), f = (if (s.getV x).toNat < (s.getV y).toNat then 1 else 0) →
    ∃ t, exec (.subn x y) s = .next t ∧
    (x ≠ 15#4 → (t.getV 15#4).toNat = f ∧
      (t.getV x).toNat = ((if y = 15#4 then f else (s.getV y).toNat) + 256 - (s.getV x).toNat) % 256) ∧
    (x = 15#4 → y ≠ 15#4 → (t.getV 15#4).toNat = ((s.getV y).toNat + 256 - f) % 256) ∧
    (x = 15#4 → y = 15#4 → t.getV 15#4 = 0#8) ∧
    t.pc = s.pc + 2#16 ∧ OnlyRegs (fun r => r = x ∨ r = 15#4) s t

/-- R128 (D3): SHR halves `V[x]` and gives VF the bit shifted out; with `x = F` VF ends 0. -/
def Obligations.ShrHalvesAndSetsBitZero : Prop :=
  ∀ (x : Nibble) (s : State), ∃ t, exec (.shr x) s = .next t ∧
    (x ≠ 15#4 → (t.getV x).toNat = (s.getV x).toNat / 2 ∧ (t.getV 15#4).toNat = (s.getV x).toNat % 2) ∧
    (x = 15#4 → t.getV 15#4 = 0#8) ∧
    t.pc = s.pc + 2#16 ∧ OnlyRegs (fun r => r = x ∨ r = 15#4) s t

/-- R130 (D3): SHL doubles `V[x]` modulo 256 and gives VF the bit shifted out; with `x = F` VF ends 0 or 2. -/
def Obligations.ShlDoublesAndSetsBitSeven : Prop :=
  ∀ (x : Nibble) (s : State), ∃ t, exec (.shl x) s = .next t ∧
    (x ≠ 15#4 → (t.getV x).toNat = 2 * (s.getV x).toNat % 256 ∧ (t.getV 15#4).toNat = (s.getV x).toNat / 128) ∧
    (x = 15#4 → (t.getV 15#4).toNat = 2 * ((s.getV 15#4).toNat / 128)) ∧
    t.pc = s.pc + 2#16 ∧ OnlyRegs (fun r => r = x ∨ r = 15#4) s t

/-- R131 (D11): RND masks the tick's random byte, whatever it is; bits where `nn` has 0 are 0. -/
def Obligations.RndMasksAnyRandomByte : Prop :=
  ∀ (x : Nibble) (nn r : Byte) (s : State), s.tickIn.rand = r → ∃ t, exec (.rnd x nn) s = .next t ∧
    (∀ k, k < 8 → (t.getV x).getLsbD k = (nn.getLsbD k && r.getLsbD k)) ∧
    t.pc = s.pc + 2#16 ∧ OnlyRegs (· = x) s t

/-! ## Index and memory -/

/-- R140: LD_I. -/
def Obligations.LdILoadsTheAddress : Prop :=
  RowDecodes 0xF000#16 0xA000#16 (fun op => .ldI (fieldNNN op)) ∧
  ∀ (nnn : Low12) (s : State), ∃ t, exec (.ldI nnn) s = .next t ∧ t.i.toNat = nnn.toNat ∧ t.pc = s.pc + 2#16 ∧
    KeepsV NoReg s t ∧ KeepsStack s t ∧ KeepsTimers s t ∧ KeepsMemory NoByte s t ∧ KeepsDisplay s t ∧ KeepsRun s t ∧ KeepsEvents s t

/-- R141 (D13): ADD_I wraps at 65536 and writes no flag. -/
def Obligations.AddIWrapsAt65536 : Prop :=
  ∀ (x : Nibble) (s : State), ∃ t, exec (.addI x) s = .next t ∧
    t.i.toNat = (s.i.toNat + (s.getV x).toNat) % 65536 ∧ t.pc = s.pc + 2#16 ∧
    KeepsV NoReg s t ∧ KeepsStack s t ∧ KeepsTimers s t ∧ KeepsMemory NoByte s t ∧ KeepsDisplay s t ∧ KeepsRun s t ∧ KeepsEvents s t

/-- R142: LD_F multiplies the whole register value by 5 and touches no memory. -/
def Obligations.LdFPointsAtTheSprite : Prop :=
  RowDecodes 0xF0FF#16 0xF029#16 (fun op => .ldF (fieldX op)) ∧
  ∀ (x : Nibble) (s : State), ∃ t, exec (.ldF x) s = .next t ∧ t.i.toNat = (s.getV x).toNat * 5 ∧ t.pc = s.pc + 2#16 ∧
    KeepsV NoReg s t ∧ KeepsStack s t ∧ KeepsTimers s t ∧ KeepsMemory NoByte s t ∧ KeepsDisplay s t ∧ KeepsRun s t ∧ KeepsEvents s t

/-- R143 (D7, D10, `BCD3_MODE` = `DIV100`, `OOB_POLICY` = `fault`): BCD stores the hundreds, tens and again hundreds digit at `I`, `I + 1`,
`I + 2`; when one of these lies above 0xFFF it faults and stores nothing. -/
def Obligations.BcdStoresItsThreeDigits : Prop :=
  ∀ (x : Nibble) (s : State),
    (s.i.toNat + 2 ≤ 0xFFF → ∃ t, exec (.bcd x) s = .next t ∧
      (t.mem.read s.base).toNat = (s.getV x).toNat / 100 ∧
      (t.mem.read (s.base + 1)).toNat = (s.getV x).toNat / 10 % 10 ∧
      (t.mem.read (s.base + 2)).toNat = (s.getV x).toNat / 100 ∧
      KeepsMemory (fun a => s.base ≤ a ∧ a < s.base + 3) s t ∧ t.pc = s.pc + 2#16 ∧
      KeepsV NoReg s t ∧ KeepsIndex s t ∧ KeepsStack s t ∧ KeepsTimers s t ∧ KeepsDisplay s t ∧ KeepsRun s t ∧ KeepsEvents s t) ∧
    (0xFFF < s.i.toNat + 2 → exec (.bcd x) s = .next { s with status := .faulted (.memRange (max s.i.toNat 0x1000)) })

/-- R144: STM stores `V[0]` to `V[x]` at `I` on and moves `I` past them; out of range it faults and writes nothing. -/
def Obligations.StmStoresTheRegisters : Prop :=
  RowDecodes 0xF0FF#16 0xF055#16 (fun op => .stm (fieldX op)) ∧
  ∀ (x : Nibble) (s : State),
    (s.i.toNat + x.toNat ≤ 0xFFF → ∃ t, exec (.stm x) s = .next t ∧
      (∀ k : Nibble, k.toNat ≤ x.toNat → t.mem.read (s.base + k.toNat) = s.getV k) ∧
      KeepsMemory (fun a => s.base ≤ a ∧ a ≤ s.base + x.toNat) s t ∧
      t.i.toNat = (s.i.toNat + x.toNat + 1) % 65536 ∧ t.pc = s.pc + 2#16 ∧
      KeepsV NoReg s t ∧ KeepsStack s t ∧ KeepsTimers s t ∧ KeepsDisplay s t ∧ KeepsRun s t ∧ KeepsEvents s t) ∧
    (0xFFF < s.i.toNat + x.toNat →
      exec (.stm x) s = .next { s with status := .faulted (.memRange (max s.i.toNat 0x1000)) })

/-- R145: LDM loads `V[0]` to `V[x]` from `I` on and moves `I` past them; out of range it faults and writes nothing. -/
def Obligations.LdmLoadsTheRegisters : Prop :=
  RowDecodes 0xF0FF#16 0xF065#16 (fun op => .ldm (fieldX op)) ∧
  ∀ (x : Nibble) (s : State),
    (s.i.toNat + x.toNat ≤ 0xFFF → ∃ t, exec (.ldm x) s = .next t ∧
      (∀ k : Nibble, k.toNat ≤ x.toNat → t.getV k = s.mem.read (s.base + k.toNat)) ∧
      KeepsV (fun r => r.toNat ≤ x.toNat) s t ∧
      t.i.toNat = (s.i.toNat + x.toNat + 1) % 65536 ∧ t.pc = s.pc + 2#16 ∧
      KeepsStack s t ∧ KeepsTimers s t ∧ KeepsMemory NoByte s t ∧ KeepsDisplay s t ∧ KeepsRun s t ∧ KeepsEvents s t) ∧
    (0xFFF < s.i.toNat + x.toNat →
      exec (.ldm x) s = .next { s with status := .faulted (.memRange (max s.i.toNat 0x1000)) })

/-- R144, R145, R209: storing the registers, pointing `I` back and loading them again restores `V[0]` to `V[x]`, whatever the registers
held in between. -/
def Obligations.StmThenLdmRestoresTheRegisters : Prop :=
  ∀ (x : Nibble) (s t : State) (v' : Vector Byte 16), s.i.toNat + x.toNat ≤ 0xFFF → exec (.stm x) s = .next t →
    ∃ u, exec (.ldm x) { t with i := s.i, v := v' } = .next u ∧ ∀ k : Nibble, k.toNat ≤ x.toNat → u.getV k = s.getV k

/-! ## Display -/

/-- R150: CLS clears every pixel and marks the buffer dirty. -/
def Obligations.ClsClearsEveryPixel : Prop :=
  RowDecodes 0xF0FF#16 0x00E0#16 (fun _ => .cls) ∧
  ∀ s : State, ∃ t, exec .cls s = .next t ∧ (∀ r c, FrameBuffer.pixel t.fb r c = false) ∧ t.dirty = true ∧ t.pc = s.pc + 2#16 ∧
    KeepsV NoReg s t ∧ KeepsIndex s t ∧ KeepsStack s t ∧ KeepsTimers s t ∧ KeepsMemory NoByte s t ∧ KeepsRun s t ∧ KeepsEvents s t

/-- R151: after a blit of up to 15 rows, a pixel is inverted exactly when a set sprite bit lands on it, with wrap in both directions. -/
def Obligations.BlitInvertsExactlyTheCoveredPixels : Prop :=
  ∀ (x y : Nat) (rows : List Byte) (fb : FrameBuffer), rows.length ≤ 15 → ∀ r c,
    (spriteCovers x y rows r c → FrameBuffer.pixel (blit x y rows fb).1 r c = !FrameBuffer.pixel fb r c) ∧
    (¬ spriteCovers x y rows r c → FrameBuffer.pixel (blit x y rows fb).1 r c = FrameBuffer.pixel fb r c)

/-- R151, R153 (c): the collision flag of a blit of up to 15 rows is 1 exactly when a set sprite bit lands on a pixel set before. -/
def Obligations.BlitReportsExactlyTheCollisions : Prop :=
  ∀ (x y : Nat) (rows : List Byte) (fb : FrameBuffer), rows.length ≤ 15 →
    ((blit x y rows fb).2 = true ↔ spriteCollides x y rows fb)

/-- R153 (a): drawing the same sprite twice at the same place restores the buffer, and on a clear buffer the second draw of a sprite with a
set bit reports a collision. -/
def Obligations.DrawingTwiceRestoresTheBuffer : Prop :=
  ∀ (x y : Nat) (rows : List Byte) (fb : FrameBuffer), rows.length ≤ 15 →
    (blit x y rows (blit x y rows fb).1).1 = fb ∧
    (fb = blankFrame → (∃ b ∈ rows, b ≠ 0#8) → (blit x y rows (blit x y rows fb).1).2 = true)

/-- R152: DRW. The sprite is the `n` bytes from `I`, the coordinates are `V[x]` and `V[y]` as they were, VF is the collision flag and is always
written; a sprite byte above 0xFFF faults and nothing is drawn. -/
def Obligations.DrwDrawsTheSprite : Prop :=
  RowDecodes 0xF000#16 0xD000#16 (fun op => .drw (fieldX op) (fieldY op) (fieldN op)) ∧
  ∀ (x y n : Nibble) (s : State) (rows : List Byte), rows = (List.range n.toNat).map (fun j => s.mem.read (s.i.toNat + j)) →
    ((n = 0#4 ∨ s.i.toNat + n.toNat ≤ 0x1000) → ∃ t, exec (.drw x y n) s = .next t ∧
      (∀ r c, (spriteCovers (s.getV x).toNat (s.getV y).toNat rows r c →
          FrameBuffer.pixel t.fb r c = !FrameBuffer.pixel s.fb r c) ∧
        (¬ spriteCovers (s.getV x).toNat (s.getV y).toNat rows r c →
          FrameBuffer.pixel t.fb r c = FrameBuffer.pixel s.fb r c)) ∧
      (spriteCollides (s.getV x).toNat (s.getV y).toNat rows s.fb → t.getV 15#4 = 1#8) ∧
      (¬ spriteCollides (s.getV x).toNat (s.getV y).toNat rows s.fb → t.getV 15#4 = 0#8) ∧
      t.dirty = true ∧ t.pc = s.pc + 2#16 ∧
      KeepsV (· = 15#4) s t ∧ KeepsIndex s t ∧ KeepsStack s t ∧ KeepsTimers s t ∧ KeepsMemory NoByte s t ∧ KeepsRun s t ∧ KeepsEvents s t) ∧
    (n ≠ 0#4 → 0x1000 < s.i.toNat + n.toNat →
      exec (.drw x y n) s = .next { s with status := .faulted (.memRange (max s.i.toNat 0x1000)) })

/-! ## Keys and timers -/

/-- R160, R161 (D9, `KEYIDX_POLICY` = `fault`): the key skips test the level of key `V[x]`; a value above 15 faults. -/
def Obligations.KeySkipsTestTheLevel : Prop :=
  ∀ (x : Nibble) (s : State),
    (∀ k : Fin 16, (s.getV x).toNat = k.val →
      (∃ t, exec (.skp x) s = .next t ∧ OnlyPc s t ∧
        t.pc.toNat = (s.pc.toNat + if s.keys[k] = true then 4 else 2) % 65536) ∧
      (∃ t, exec (.sknp x) s = .next t ∧ OnlyPc s t ∧
        t.pc.toNat = (s.pc.toNat + if s.keys[k] = true then 2 else 4) % 65536)) ∧
    (15 < (s.getV x).toNat →
      exec (.skp x) s = .next { s with status := .faulted (.keyRange (s.getV x)) } ∧
      exec (.sknp x) s = .next { s with status := .faulted (.keyRange (s.getV x)) })

/-- R162: LD_VX_DT reads the timer as it is before this tick's decrement. -/
def Obligations.LdVxDtReadsTheTimer : Prop :=
  RowDecodes 0xF0FF#16 0xF007#16 (fun op => .ldVxDt (fieldX op)) ∧
  ∀ (x : Nibble) (s : State), ∃ t, exec (.ldVxDt x) s = .next t ∧ t.getV x = s.dt ∧ t.pc = s.pc + 2#16 ∧ OnlyRegs (· = x) s t ∧
    (s.status = .running → t.finishTick.dt.toNat = s.dt.toNat - 1)

/-- R163: WAITKEY takes the least held key, and with no key held leaves the whole state, `pc` with it, as it is. -/
def Obligations.WaitkeyTakesTheLeastHeldKey : Prop :=
  RowDecodes 0xF0FF#16 0xF00A#16 (fun op => .waitkey (fieldX op)) ∧
  ∀ (x : Nibble) (s : State),
    (∀ k : Fin 16, s.keys[k] = true → (∀ j : Fin 16, j < k → s.keys[j] = false) →
      ∃ t, exec (.waitkey x) s = .next t ∧ (t.getV x).toNat = k.val ∧ t.pc = s.pc + 2#16 ∧ OnlyRegs (· = x) s t) ∧
    ((∀ k : Fin 16, s.keys[k] = false) → exec (.waitkey x) s = .next s)

/-- R164, R165: the timer loads, and the decrement of the same tick, after which the timer holds `V[x] - 1`, or 0. -/
def Obligations.TimersAreSetAndCountInTheSameTick : Prop :=
  RowDecodes 0xF0FF#16 0xF015#16 (fun op => .ldDtVx (fieldX op)) ∧
  RowDecodes 0xF0FF#16 0xF018#16 (fun op => .ldStVx (fieldX op)) ∧
  ∀ (x : Nibble) (s : State),
    (∃ t, exec (.ldDtVx x) s = .next t ∧ t.dt = s.getV x ∧ t.st = s.st ∧ t.pc = s.pc + 2#16 ∧
      KeepsV NoReg s t ∧ KeepsIndex s t ∧ KeepsStack s t ∧ KeepsMemory NoByte s t ∧ KeepsDisplay s t ∧ KeepsRun s t ∧ KeepsEvents s t ∧
      (s.status = .running → t.finishTick.dt.toNat = (s.getV x).toNat - 1)) ∧
    (∃ t, exec (.ldStVx x) s = .next t ∧ t.st = s.getV x ∧ t.dt = s.dt ∧ t.pc = s.pc + 2#16 ∧
      KeepsV NoReg s t ∧ KeepsIndex s t ∧ KeepsStack s t ∧ KeepsMemory NoByte s t ∧ KeepsDisplay s t ∧ KeepsRun s t ∧ KeepsEvents s t ∧
      (s.status = .running → t.finishTick.st.toNat = (s.getV x).toNat - 1))

/-! ## The unrecognized fallback -/

/-- R92, R93, R94, R95: an unrecognized word emits its diagnostic (the word and the address it was fetched from) and advances `pc`,
and does nothing else. -/
def Obligations.UnrecognizedWordsOnlyReport : Prop :=
  (∀ op : Word, fieldC op = 0x0#4 → fieldNN op ≠ 0xE0#8 → fieldNN op ≠ 0xEE#8 → decodeWord op = .ok (.unrec0 (fieldNNN op))) ∧
  (∀ op : Word, fieldC op = 0x8#4 → (8 ≤ (fieldN op).toNat ∧ fieldN op ≠ 0xE#4) → decodeWord op = .ok (.unrec8 (fieldNNN op))) ∧
  (∀ op : Word, fieldC op = 0xE#4 → fieldNN op ≠ 0x9E#8 → fieldNN op ≠ 0xA1#8 → decodeWord op = .ok (.unrecE (fieldNNN op))) ∧
  (∀ op : Word, fieldC op = 0xF#4 → (fieldNN op).toNat ∉ [0x07, 0x0A, 0x15, 0x18, 0x1E, 0x29, 0x33, 0x55, 0x65] →
    decodeWord op = .ok (.unrecF (fieldNNN op))) ∧
  ∀ (low : Low12) (s : State) (i : Instr) (c : Nibble),
    ((i = .unrec0 low ∧ c = 0x0#4) ∨ (i = .unrec8 low ∧ c = 0x8#4) ∨ (i = .unrecE low ∧ c = 0xE#4) ∨ (i = .unrecF low ∧ c = 0xF#4)) →
    ∃ t op, exec i s = .next t ∧ op.toNat = c.toNat * 4096 + low.toNat ∧ t.events = .diag op s.pc :: s.events ∧ t.pc = s.pc + 2#16 ∧
      KeepsV NoReg s t ∧ KeepsIndex s t ∧ KeepsStack s t ∧ KeepsTimers s t ∧ KeepsMemory NoByte s t ∧ KeepsDisplay s t ∧ KeepsRun s t

/-! ## The inputs of a tick -/

/-- R82 (D14), R81, R5: whatever the environment supplies for a running tick, the key array ends the tick with exactly its 16 keys, whatever
the instruction did, or as it was when the tick quit. With the script used up, the tick's quit and keys are the free inputs of that
tick (the script and the free inputs are the model's form of the environment, log entry 2). -/
def Obligations.EveryTickHoldsTheKeysOfItsInput : Prop :=
  (∀ (s : State) (r : TickIn) (rest : List TickIn), s.status = .running → s.inputs = r :: rest →
    ∃ u, step s = .next u ∧ ∀ k : Fin 16, u.keys[k] = if r.quit then s.keys[k] else r.keys.getLsbD k.val) ∧
  (∀ s : State, s.status = .running → s.inputs = [] →
    ∃ u, step s = .next u ∧
      ∀ k : Fin 16, u.keys[k] = if Config.quitIn s.ticks then s.keys[k] else (Config.keysIn s.ticks).getLsbD k.val)
end

