-- ==== Sys2Proof/Laws/Decode.lean ====
section
/-! SUPPORT. The fields of an encoded word, the fields of a masked word, a word put together again from its fields, and a word as two bytes.
Each is an equality of bit vectors, proved bit by bit. -/

namespace Sys2Proof

/-! ## Fields of the three encodings -/

@[simp] theorem fieldC_encNNN (c : Nibble) (nnn : Low12) :
    fieldC (encNNN c nnn) = c := by
  apply BitVec.eq_of_getLsbD_eq
  intro k hk
  simp only [fieldC, encNNN, BitVec.getLsbD_append, BitVec.getLsbD_extractLsb']
  interval_cases k <;> simp

@[simp] theorem fieldNNN_encNNN (c : Nibble) (nnn : Low12) :
    fieldNNN (encNNN c nnn) = nnn := by
  apply BitVec.eq_of_getLsbD_eq
  intro k hk
  simp only [fieldNNN, encNNN, BitVec.getLsbD_append, BitVec.getLsbD_extractLsb']
  interval_cases k <;> simp

@[simp] theorem fieldNN_encNNN (c : Nibble) (nnn : Low12) :
    fieldNN (encNNN c nnn) = low12Byte nnn := by
  apply BitVec.eq_of_getLsbD_eq
  intro k hk
  simp only [fieldNN, encNNN, low12Byte, BitVec.getLsbD_append, BitVec.getLsbD_extractLsb']
  interval_cases k <;> simp

@[simp] theorem fieldN_encNNN (c : Nibble) (nnn : Low12) :
    fieldN (encNNN c nnn) = low12Nibble nnn := by
  apply BitVec.eq_of_getLsbD_eq
  intro k hk
  simp only [fieldN, encNNN, low12Nibble, BitVec.getLsbD_append, BitVec.getLsbD_extractLsb']
  interval_cases k <;> simp

@[simp] theorem fieldC_encXNN (c x : Nibble) (nn : Byte) :
    fieldC (encXNN c x nn) = c := by
  apply BitVec.eq_of_getLsbD_eq
  intro k hk
  simp only [fieldC, encXNN, BitVec.getLsbD_append, BitVec.getLsbD_extractLsb']
  interval_cases k <;> simp

@[simp] theorem fieldX_encXNN (c x : Nibble) (nn : Byte) :
    fieldX (encXNN c x nn) = x := by
  apply BitVec.eq_of_getLsbD_eq
  intro k hk
  simp only [fieldX, encXNN, BitVec.getLsbD_append, BitVec.getLsbD_extractLsb']
  interval_cases k <;> simp

@[simp] theorem fieldNN_encXNN (c x : Nibble) (nn : Byte) :
    fieldNN (encXNN c x nn) = nn := by
  apply BitVec.eq_of_getLsbD_eq
  intro k hk
  simp only [fieldNN, encXNN, BitVec.getLsbD_append, BitVec.getLsbD_extractLsb']
  interval_cases k <;> simp

@[simp] theorem fieldC_encXYN (c x y n : Nibble) :
    fieldC (encXYN c x y n) = c := by
  apply BitVec.eq_of_getLsbD_eq
  intro k hk
  simp only [fieldC, encXYN, BitVec.getLsbD_append, BitVec.getLsbD_extractLsb']
  interval_cases k <;> simp

@[simp] theorem fieldX_encXYN (c x y n : Nibble) :
    fieldX (encXYN c x y n) = x := by
  apply BitVec.eq_of_getLsbD_eq
  intro k hk
  simp only [fieldX, encXYN, BitVec.getLsbD_append, BitVec.getLsbD_extractLsb']
  interval_cases k <;> simp

@[simp] theorem fieldY_encXYN (c x y n : Nibble) :
    fieldY (encXYN c x y n) = y := by
  apply BitVec.eq_of_getLsbD_eq
  intro k hk
  simp only [fieldY, encXYN, BitVec.getLsbD_append, BitVec.getLsbD_extractLsb']
  interval_cases k <;> simp

@[simp] theorem fieldN_encXYN (c x y n : Nibble) :
    fieldN (encXYN c x y n) = n := by
  apply BitVec.eq_of_getLsbD_eq
  intro k hk
  simp only [fieldN, encXYN, BitVec.getLsbD_append, BitVec.getLsbD_extractLsb']
  interval_cases k <;> simp

/-! ## Masked encodings -/

theorem encNNN_and_F000 (c : Nibble) (nnn : Low12) :
    encNNN c nnn &&& 0xF000#16 = encNNN c 0#12 := by
  apply BitVec.eq_of_getLsbD_eq
  intro k hk
  simp only [encNNN, BitVec.getLsbD_and, BitVec.getLsbD_append]
  interval_cases k <;> simp

theorem encXNN_and_F000 (c x : Nibble) (nn : Byte) :
    encXNN c x nn &&& 0xF000#16 = encNNN c 0#12 := by
  apply BitVec.eq_of_getLsbD_eq
  intro k hk
  simp only [encNNN, encXNN, BitVec.getLsbD_and, BitVec.getLsbD_append]
  interval_cases k <;> simp

theorem encXYN_and_F000 (c x y n : Nibble) :
    encXYN c x y n &&& 0xF000#16 = encNNN c 0#12 := by
  apply BitVec.eq_of_getLsbD_eq
  intro k hk
  simp only [encNNN, encXYN, BitVec.getLsbD_and, BitVec.getLsbD_append]
  interval_cases k <;> simp

theorem encXNN_and_F0FF (c x : Nibble) (nn : Byte) :
    encXNN c x nn &&& 0xF0FF#16 = encXNN c 0#4 nn := by
  apply BitVec.eq_of_getLsbD_eq
  intro k hk
  simp only [encXNN, BitVec.getLsbD_and, BitVec.getLsbD_append]
  interval_cases k <;> simp

theorem encXYN_and_F00F (c x y n : Nibble) :
    encXYN c x y n &&& 0xF00F#16 = encXYN c 0#4 0#4 n := by
  apply BitVec.eq_of_getLsbD_eq
  intro k hk
  simp only [encXYN, BitVec.getLsbD_and, BitVec.getLsbD_append]
  interval_cases k <;> simp

/-! ## Fields of a masked word: a word that matches a row has the fields its row fixes -/

theorem fieldC_and_F000 (op : Word) :
    fieldC (op &&& 0xF000#16) = fieldC op := by
  apply BitVec.eq_of_getLsbD_eq
  intro k hk
  simp only [fieldC, BitVec.getLsbD_and, BitVec.getLsbD_extractLsb']
  interval_cases k <;> simp

theorem fieldC_and_F0FF (op : Word) :
    fieldC (op &&& 0xF0FF#16) = fieldC op := by
  apply BitVec.eq_of_getLsbD_eq
  intro k hk
  simp only [fieldC, BitVec.getLsbD_and, BitVec.getLsbD_extractLsb']
  interval_cases k <;> simp

theorem fieldC_and_F00F (op : Word) :
    fieldC (op &&& 0xF00F#16) = fieldC op := by
  apply BitVec.eq_of_getLsbD_eq
  intro k hk
  simp only [fieldC, BitVec.getLsbD_and, BitVec.getLsbD_extractLsb']
  interval_cases k <;> simp

theorem fieldNN_and_F0FF (op : Word) :
    fieldNN (op &&& 0xF0FF#16) = fieldNN op := by
  apply BitVec.eq_of_getLsbD_eq
  intro k hk
  simp only [fieldNN, BitVec.getLsbD_and, BitVec.getLsbD_extractLsb']
  interval_cases k <;> simp

theorem fieldN_and_F00F (op : Word) :
    fieldN (op &&& 0xF00F#16) = fieldN op := by
  apply BitVec.eq_of_getLsbD_eq
  intro k hk
  simp only [fieldN, BitVec.getLsbD_and, BitVec.getLsbD_extractLsb']
  interval_cases k <;> simp

/-! ## A word put together again -/

theorem encNNN_fields (op : Word) :
    encNNN (fieldC op) (fieldNNN op) = op := by
  apply BitVec.eq_of_getLsbD_eq
  intro k hk
  simp only [encNNN, fieldC, fieldNNN, BitVec.getLsbD_append, BitVec.getLsbD_extractLsb']
  interval_cases k <;> simp

theorem encXNN_fields (op : Word) :
    encXNN (fieldC op) (fieldX op) (fieldNN op) = op := by
  apply BitVec.eq_of_getLsbD_eq
  intro k hk
  simp only [encXNN, fieldC, fieldX, fieldNN, BitVec.getLsbD_append, BitVec.getLsbD_extractLsb']
  interval_cases k <;> simp

theorem encXYN_fields (op : Word) :
    encXYN (fieldC op) (fieldX op) (fieldY op) (fieldN op) = op := by
  apply BitVec.eq_of_getLsbD_eq
  intro k hk
  simp only [encXYN, fieldC, fieldX, fieldY, fieldN, BitVec.getLsbD_append, BitVec.getLsbD_extractLsb']
  interval_cases k <;> simp

@[simp] theorem low12Byte_fieldNNN (op : Word) :
    low12Byte (fieldNNN op) = fieldNN op := by
  apply BitVec.eq_of_getLsbD_eq
  intro k hk
  simp only [low12Byte, fieldNNN, fieldNN, BitVec.getLsbD_extractLsb']
  interval_cases k <;> simp

@[simp] theorem low12Nibble_fieldNNN (op : Word) :
    low12Nibble (fieldNNN op) = fieldN op := by
  apply BitVec.eq_of_getLsbD_eq
  intro k hk
  simp only [low12Nibble, fieldNNN, fieldN, BitVec.getLsbD_extractLsb']
  interval_cases k <;> simp

@[simp] theorem wordOfBytes_bytesOfWord (op : Word) :
    wordOfBytes (op.extractLsb' 8 8) (op.extractLsb' 0 8) = op := by
  apply BitVec.eq_of_getLsbD_eq
  intro k hk
  simp only [wordOfBytes, BitVec.getLsbD_append, BitVec.getLsbD_extractLsb']
  interval_cases k <;> simp

/-- Decoding the two bytes of a word is decoding the word. -/
theorem decode_bytesOfWord (op : Word) (rest : List Byte) :
    decode (bytesOfWord op ++ rest) =
      match decodeWord op with
      | .ok i => .ok (i, rest)
      | .error e => .error e := by
  cases h : decodeWord op <;> simp [bytesOfWord, decode, h]

/-- The word of two bytes, as a number: the first byte is the high one (R47). -/
theorem wordOfBytes_toNat (hi lo : Byte) : (wordOfBytes hi lo).toNat = hi.toNat * 256 + lo.toNat := by
  have h := lo.isLt
  rw [wordOfBytes, BitVec.toNat_append, Nat.shiftLeft_eq, Nat.mul_comm, ← Nat.two_pow_add_eq_or_of_lt h]

end Sys2Proof
end

