-- ==== Sys2Proof/Laws/State.lean ====
section
/-! SUPPORT. One lemma per field per update of the state, true by `rfl`: what each named update leaves and what it writes. -/

namespace Sys2Proof.Machine

variable (s : State)


/-! ### raise -/

@[simp] theorem State.raise_v (f : Fault) : (s.raise f).v = s.v := rfl
@[simp] theorem State.raise_i (f : Fault) : (s.raise f).i = s.i := rfl
@[simp] theorem State.raise_pc (f : Fault) : (s.raise f).pc = s.pc := rfl
@[simp] theorem State.raise_stack (f : Fault) : (s.raise f).stack = s.stack := rfl
@[simp] theorem State.raise_sp (f : Fault) : (s.raise f).sp = s.sp := rfl
@[simp] theorem State.raise_dt (f : Fault) : (s.raise f).dt = s.dt := rfl
@[simp] theorem State.raise_st (f : Fault) : (s.raise f).st = s.st := rfl
@[simp] theorem State.raise_mem (f : Fault) : (s.raise f).mem = s.mem := rfl
@[simp] theorem State.raise_fb (f : Fault) : (s.raise f).fb = s.fb := rfl
@[simp] theorem State.raise_dirty (f : Fault) : (s.raise f).dirty = s.dirty := rfl
@[simp] theorem State.raise_keys (f : Fault) : (s.raise f).keys = s.keys := rfl
@[simp] theorem State.raise_status (f : Fault) : (s.raise f).status = .faulted f := rfl
@[simp] theorem State.raise_inputs (f : Fault) : (s.raise f).inputs = s.inputs := rfl
@[simp] theorem State.raise_ticks (f : Fault) : (s.raise f).ticks = s.ticks := rfl
@[simp] theorem State.raise_events (f : Fault) : (s.raise f).events = s.events := rfl

/-! ### setV -/

@[simp] theorem State.setV_v (x : Nibble) (b : Byte) : (s.setV x b).v = s.v.set x.toNat b x.isLt := rfl
@[simp] theorem State.setV_i (x : Nibble) (b : Byte) : (s.setV x b).i = s.i := rfl
@[simp] theorem State.setV_pc (x : Nibble) (b : Byte) : (s.setV x b).pc = s.pc := rfl
@[simp] theorem State.setV_stack (x : Nibble) (b : Byte) : (s.setV x b).stack = s.stack := rfl
@[simp] theorem State.setV_sp (x : Nibble) (b : Byte) : (s.setV x b).sp = s.sp := rfl
@[simp] theorem State.setV_dt (x : Nibble) (b : Byte) : (s.setV x b).dt = s.dt := rfl
@[simp] theorem State.setV_st (x : Nibble) (b : Byte) : (s.setV x b).st = s.st := rfl
@[simp] theorem State.setV_mem (x : Nibble) (b : Byte) : (s.setV x b).mem = s.mem := rfl
@[simp] theorem State.setV_fb (x : Nibble) (b : Byte) : (s.setV x b).fb = s.fb := rfl
@[simp] theorem State.setV_dirty (x : Nibble) (b : Byte) : (s.setV x b).dirty = s.dirty := rfl
@[simp] theorem State.setV_keys (x : Nibble) (b : Byte) : (s.setV x b).keys = s.keys := rfl
@[simp] theorem State.setV_status (x : Nibble) (b : Byte) : (s.setV x b).status = s.status := rfl
@[simp] theorem State.setV_inputs (x : Nibble) (b : Byte) : (s.setV x b).inputs = s.inputs := rfl
@[simp] theorem State.setV_ticks (x : Nibble) (b : Byte) : (s.setV x b).ticks = s.ticks := rfl
@[simp] theorem State.setV_events (x : Nibble) (b : Byte) : (s.setV x b).events = s.events := rfl

/-! ### setPc -/

@[simp] theorem State.setPc_v (a : Word) : (s.setPc a).v = s.v := rfl
@[simp] theorem State.setPc_i (a : Word) : (s.setPc a).i = s.i := rfl
@[simp] theorem State.setPc_pc (a : Word) : (s.setPc a).pc = a := rfl
@[simp] theorem State.setPc_stack (a : Word) : (s.setPc a).stack = s.stack := rfl
@[simp] theorem State.setPc_sp (a : Word) : (s.setPc a).sp = s.sp := rfl
@[simp] theorem State.setPc_dt (a : Word) : (s.setPc a).dt = s.dt := rfl
@[simp] theorem State.setPc_st (a : Word) : (s.setPc a).st = s.st := rfl
@[simp] theorem State.setPc_mem (a : Word) : (s.setPc a).mem = s.mem := rfl
@[simp] theorem State.setPc_fb (a : Word) : (s.setPc a).fb = s.fb := rfl
@[simp] theorem State.setPc_dirty (a : Word) : (s.setPc a).dirty = s.dirty := rfl
@[simp] theorem State.setPc_keys (a : Word) : (s.setPc a).keys = s.keys := rfl
@[simp] theorem State.setPc_status (a : Word) : (s.setPc a).status = s.status := rfl
@[simp] theorem State.setPc_inputs (a : Word) : (s.setPc a).inputs = s.inputs := rfl
@[simp] theorem State.setPc_ticks (a : Word) : (s.setPc a).ticks = s.ticks := rfl
@[simp] theorem State.setPc_events (a : Word) : (s.setPc a).events = s.events := rfl

/-! ### advance -/

@[simp] theorem State.advance_v (k : Word) : (s.advance k).v = s.v := rfl
@[simp] theorem State.advance_i (k : Word) : (s.advance k).i = s.i := rfl
@[simp] theorem State.advance_pc (k : Word) : (s.advance k).pc = s.pc + k := rfl
@[simp] theorem State.advance_stack (k : Word) : (s.advance k).stack = s.stack := rfl
@[simp] theorem State.advance_sp (k : Word) : (s.advance k).sp = s.sp := rfl
@[simp] theorem State.advance_dt (k : Word) : (s.advance k).dt = s.dt := rfl
@[simp] theorem State.advance_st (k : Word) : (s.advance k).st = s.st := rfl
@[simp] theorem State.advance_mem (k : Word) : (s.advance k).mem = s.mem := rfl
@[simp] theorem State.advance_fb (k : Word) : (s.advance k).fb = s.fb := rfl
@[simp] theorem State.advance_dirty (k : Word) : (s.advance k).dirty = s.dirty := rfl
@[simp] theorem State.advance_keys (k : Word) : (s.advance k).keys = s.keys := rfl
@[simp] theorem State.advance_status (k : Word) : (s.advance k).status = s.status := rfl
@[simp] theorem State.advance_inputs (k : Word) : (s.advance k).inputs = s.inputs := rfl
@[simp] theorem State.advance_ticks (k : Word) : (s.advance k).ticks = s.ticks := rfl
@[simp] theorem State.advance_events (k : Word) : (s.advance k).events = s.events := rfl

/-! ### skipIf -/

@[simp] theorem State.skipIf_v (c : Bool) : (s.skipIf c).v = s.v := rfl
@[simp] theorem State.skipIf_i (c : Bool) : (s.skipIf c).i = s.i := rfl
@[simp] theorem State.skipIf_pc (c : Bool) : (s.skipIf c).pc = s.pc + (if c then 4#16 else 2#16) := rfl
@[simp] theorem State.skipIf_stack (c : Bool) : (s.skipIf c).stack = s.stack := rfl
@[simp] theorem State.skipIf_sp (c : Bool) : (s.skipIf c).sp = s.sp := rfl
@[simp] theorem State.skipIf_dt (c : Bool) : (s.skipIf c).dt = s.dt := rfl
@[simp] theorem State.skipIf_st (c : Bool) : (s.skipIf c).st = s.st := rfl
@[simp] theorem State.skipIf_mem (c : Bool) : (s.skipIf c).mem = s.mem := rfl
@[simp] theorem State.skipIf_fb (c : Bool) : (s.skipIf c).fb = s.fb := rfl
@[simp] theorem State.skipIf_dirty (c : Bool) : (s.skipIf c).dirty = s.dirty := rfl
@[simp] theorem State.skipIf_keys (c : Bool) : (s.skipIf c).keys = s.keys := rfl
@[simp] theorem State.skipIf_status (c : Bool) : (s.skipIf c).status = s.status := rfl
@[simp] theorem State.skipIf_inputs (c : Bool) : (s.skipIf c).inputs = s.inputs := rfl
@[simp] theorem State.skipIf_ticks (c : Bool) : (s.skipIf c).ticks = s.ticks := rfl
@[simp] theorem State.skipIf_events (c : Bool) : (s.skipIf c).events = s.events := rfl

/-! ### push -/

@[simp] theorem State.push_v (a : Word) : (s.push a).v = s.v := rfl
@[simp] theorem State.push_i (a : Word) : (s.push a).i = s.i := rfl
@[simp] theorem State.push_pc (a : Word) : (s.push a).pc = s.pc := rfl
@[simp] theorem State.push_stack (a : Word) : (s.push a).stack = s.stack.set (s.sp.val % 16) a (Nat.mod_lt _ (by decide)) := rfl
@[simp] theorem State.push_sp (a : Word) : (s.push a).sp = ⟨s.sp.val % 16 + 1, Nat.succ_lt_succ (Nat.mod_lt _ (by decide))⟩ := rfl
@[simp] theorem State.push_dt (a : Word) : (s.push a).dt = s.dt := rfl
@[simp] theorem State.push_st (a : Word) : (s.push a).st = s.st := rfl
@[simp] theorem State.push_mem (a : Word) : (s.push a).mem = s.mem := rfl
@[simp] theorem State.push_fb (a : Word) : (s.push a).fb = s.fb := rfl
@[simp] theorem State.push_dirty (a : Word) : (s.push a).dirty = s.dirty := rfl
@[simp] theorem State.push_keys (a : Word) : (s.push a).keys = s.keys := rfl
@[simp] theorem State.push_status (a : Word) : (s.push a).status = s.status := rfl
@[simp] theorem State.push_inputs (a : Word) : (s.push a).inputs = s.inputs := rfl
@[simp] theorem State.push_ticks (a : Word) : (s.push a).ticks = s.ticks := rfl
@[simp] theorem State.push_events (a : Word) : (s.push a).events = s.events := rfl

/-! ### bumpI -/

@[simp] theorem State.bumpI_v (x : Nibble) : (s.bumpI x).v = s.v := rfl
@[simp] theorem State.bumpI_i (x : Nibble) : (s.bumpI x).i = s.i + x.setWidth 16 + 1#16 := rfl
@[simp] theorem State.bumpI_pc (x : Nibble) : (s.bumpI x).pc = s.pc := rfl
@[simp] theorem State.bumpI_stack (x : Nibble) : (s.bumpI x).stack = s.stack := rfl
@[simp] theorem State.bumpI_sp (x : Nibble) : (s.bumpI x).sp = s.sp := rfl
@[simp] theorem State.bumpI_dt (x : Nibble) : (s.bumpI x).dt = s.dt := rfl
@[simp] theorem State.bumpI_st (x : Nibble) : (s.bumpI x).st = s.st := rfl
@[simp] theorem State.bumpI_mem (x : Nibble) : (s.bumpI x).mem = s.mem := rfl
@[simp] theorem State.bumpI_fb (x : Nibble) : (s.bumpI x).fb = s.fb := rfl
@[simp] theorem State.bumpI_dirty (x : Nibble) : (s.bumpI x).dirty = s.dirty := rfl
@[simp] theorem State.bumpI_keys (x : Nibble) : (s.bumpI x).keys = s.keys := rfl
@[simp] theorem State.bumpI_status (x : Nibble) : (s.bumpI x).status = s.status := rfl
@[simp] theorem State.bumpI_inputs (x : Nibble) : (s.bumpI x).inputs = s.inputs := rfl
@[simp] theorem State.bumpI_ticks (x : Nibble) : (s.bumpI x).ticks = s.ticks := rfl
@[simp] theorem State.bumpI_events (x : Nibble) : (s.bumpI x).events = s.events := rfl

/-! ### emit -/

@[simp] theorem State.emit_v (e : Event) : (s.emit e).v = s.v := rfl
@[simp] theorem State.emit_i (e : Event) : (s.emit e).i = s.i := rfl
@[simp] theorem State.emit_pc (e : Event) : (s.emit e).pc = s.pc := rfl
@[simp] theorem State.emit_stack (e : Event) : (s.emit e).stack = s.stack := rfl
@[simp] theorem State.emit_sp (e : Event) : (s.emit e).sp = s.sp := rfl
@[simp] theorem State.emit_dt (e : Event) : (s.emit e).dt = s.dt := rfl
@[simp] theorem State.emit_st (e : Event) : (s.emit e).st = s.st := rfl
@[simp] theorem State.emit_mem (e : Event) : (s.emit e).mem = s.mem := rfl
@[simp] theorem State.emit_fb (e : Event) : (s.emit e).fb = s.fb := rfl
@[simp] theorem State.emit_dirty (e : Event) : (s.emit e).dirty = s.dirty := rfl
@[simp] theorem State.emit_keys (e : Event) : (s.emit e).keys = s.keys := rfl
@[simp] theorem State.emit_status (e : Event) : (s.emit e).status = s.status := rfl
@[simp] theorem State.emit_inputs (e : Event) : (s.emit e).inputs = s.inputs := rfl
@[simp] theorem State.emit_ticks (e : Event) : (s.emit e).ticks = s.ticks := rfl
@[simp] theorem State.emit_events (e : Event) : (s.emit e).events = e :: s.events := rfl

/-! ### unrecognized -/

@[simp] theorem State.unrecognized_v (op : Word) : (s.unrecognized op).v = s.v := rfl
@[simp] theorem State.unrecognized_i (op : Word) : (s.unrecognized op).i = s.i := rfl
@[simp] theorem State.unrecognized_pc (op : Word) : (s.unrecognized op).pc = s.pc + 2#16 := rfl
@[simp] theorem State.unrecognized_stack (op : Word) : (s.unrecognized op).stack = s.stack := rfl
@[simp] theorem State.unrecognized_sp (op : Word) : (s.unrecognized op).sp = s.sp := rfl
@[simp] theorem State.unrecognized_dt (op : Word) : (s.unrecognized op).dt = s.dt := rfl
@[simp] theorem State.unrecognized_st (op : Word) : (s.unrecognized op).st = s.st := rfl
@[simp] theorem State.unrecognized_mem (op : Word) : (s.unrecognized op).mem = s.mem := rfl
@[simp] theorem State.unrecognized_fb (op : Word) : (s.unrecognized op).fb = s.fb := rfl
@[simp] theorem State.unrecognized_dirty (op : Word) : (s.unrecognized op).dirty = s.dirty := rfl
@[simp] theorem State.unrecognized_keys (op : Word) : (s.unrecognized op).keys = s.keys := rfl
@[simp] theorem State.unrecognized_status (op : Word) : (s.unrecognized op).status = s.status := rfl
@[simp] theorem State.unrecognized_inputs (op : Word) : (s.unrecognized op).inputs = s.inputs := rfl
@[simp] theorem State.unrecognized_ticks (op : Word) : (s.unrecognized op).ticks = s.ticks := rfl
@[simp] theorem State.unrecognized_events (op : Word) : (s.unrecognized op).events = .diag op s.pc :: s.events := rfl

/-! ### quit -/

@[simp] theorem State.quit_v : (s.quit).v = s.v := rfl
@[simp] theorem State.quit_i : (s.quit).i = s.i := rfl
@[simp] theorem State.quit_pc : (s.quit).pc = s.pc := rfl
@[simp] theorem State.quit_stack : (s.quit).stack = s.stack := rfl
@[simp] theorem State.quit_sp : (s.quit).sp = s.sp := rfl
@[simp] theorem State.quit_dt : (s.quit).dt = s.dt := rfl
@[simp] theorem State.quit_st : (s.quit).st = s.st := rfl
@[simp] theorem State.quit_mem : (s.quit).mem = s.mem := rfl
@[simp] theorem State.quit_fb : (s.quit).fb = s.fb := rfl
@[simp] theorem State.quit_dirty : (s.quit).dirty = s.dirty := rfl
@[simp] theorem State.quit_keys : (s.quit).keys = s.keys := rfl
@[simp] theorem State.quit_status : (s.quit).status = .stopped := rfl
@[simp] theorem State.quit_inputs : (s.quit).inputs = s.inputs := rfl
@[simp] theorem State.quit_ticks : (s.quit).ticks = s.ticks := rfl
@[simp] theorem State.quit_events : (s.quit).events = s.events := rfl

/-! ### sampleKeys -/

@[simp] theorem State.sampleKeys_v : (s.sampleKeys).v = s.v := rfl
@[simp] theorem State.sampleKeys_i : (s.sampleKeys).i = s.i := rfl
@[simp] theorem State.sampleKeys_pc : (s.sampleKeys).pc = s.pc := rfl
@[simp] theorem State.sampleKeys_stack : (s.sampleKeys).stack = s.stack := rfl
@[simp] theorem State.sampleKeys_sp : (s.sampleKeys).sp = s.sp := rfl
@[simp] theorem State.sampleKeys_dt : (s.sampleKeys).dt = s.dt := rfl
@[simp] theorem State.sampleKeys_st : (s.sampleKeys).st = s.st := rfl
@[simp] theorem State.sampleKeys_mem : (s.sampleKeys).mem = s.mem := rfl
@[simp] theorem State.sampleKeys_fb : (s.sampleKeys).fb = s.fb := rfl
@[simp] theorem State.sampleKeys_dirty : (s.sampleKeys).dirty = s.dirty := rfl
@[simp] theorem State.sampleKeys_keys : (s.sampleKeys).keys = keysOfWord s.tickIn.keys := rfl
@[simp] theorem State.sampleKeys_status : (s.sampleKeys).status = s.status := rfl
@[simp] theorem State.sampleKeys_inputs : (s.sampleKeys).inputs = s.inputs := rfl
@[simp] theorem State.sampleKeys_ticks : (s.sampleKeys).ticks = s.ticks := rfl
@[simp] theorem State.sampleKeys_events : (s.sampleKeys).events = s.events := rfl

/-! ### countTimers -/

@[simp] theorem State.countTimers_v : (s.countTimers).v = s.v := rfl
@[simp] theorem State.countTimers_i : (s.countTimers).i = s.i := rfl
@[simp] theorem State.countTimers_pc : (s.countTimers).pc = s.pc := rfl
@[simp] theorem State.countTimers_stack : (s.countTimers).stack = s.stack := rfl
@[simp] theorem State.countTimers_sp : (s.countTimers).sp = s.sp := rfl
@[simp] theorem State.countTimers_dt : (s.countTimers).dt = countDown s.dt := rfl
@[simp] theorem State.countTimers_st : (s.countTimers).st = countDown s.st := rfl
@[simp] theorem State.countTimers_mem : (s.countTimers).mem = s.mem := rfl
@[simp] theorem State.countTimers_fb : (s.countTimers).fb = s.fb := rfl
@[simp] theorem State.countTimers_dirty : (s.countTimers).dirty = s.dirty := rfl
@[simp] theorem State.countTimers_keys : (s.countTimers).keys = s.keys := rfl
@[simp] theorem State.countTimers_status : (s.countTimers).status = s.status := rfl
@[simp] theorem State.countTimers_inputs : (s.countTimers).inputs = s.inputs := rfl
@[simp] theorem State.countTimers_ticks : (s.countTimers).ticks = s.ticks := rfl
@[simp] theorem State.countTimers_events : (s.countTimers).events = s.events := rfl

/-! ### pace -/

@[simp] theorem State.pace_v : (s.pace).v = s.v := rfl
@[simp] theorem State.pace_i : (s.pace).i = s.i := rfl
@[simp] theorem State.pace_pc : (s.pace).pc = s.pc := rfl
@[simp] theorem State.pace_stack : (s.pace).stack = s.stack := rfl
@[simp] theorem State.pace_sp : (s.pace).sp = s.sp := rfl
@[simp] theorem State.pace_dt : (s.pace).dt = s.dt := rfl
@[simp] theorem State.pace_st : (s.pace).st = s.st := rfl
@[simp] theorem State.pace_mem : (s.pace).mem = s.mem := rfl
@[simp] theorem State.pace_fb : (s.pace).fb = s.fb := rfl
@[simp] theorem State.pace_dirty : (s.pace).dirty = s.dirty := rfl
@[simp] theorem State.pace_keys : (s.pace).keys = s.keys := rfl
@[simp] theorem State.pace_status : (s.pace).status = s.status := rfl
@[simp] theorem State.pace_inputs : (s.pace).inputs = s.inputs.tail := rfl
@[simp] theorem State.pace_ticks : (s.pace).ticks = s.ticks + 1 := rfl
@[simp] theorem State.pace_events : (s.pace).events = s.events := rfl

/-! ### placeWord -/

@[simp] theorem State.placeWord_v (op : Word) : (s.placeWord op).v = s.v := rfl
@[simp] theorem State.placeWord_i (op : Word) : (s.placeWord op).i = s.i := rfl
@[simp] theorem State.placeWord_pc (op : Word) : (s.placeWord op).pc = s.pc := rfl
@[simp] theorem State.placeWord_stack (op : Word) : (s.placeWord op).stack = s.stack := rfl
@[simp] theorem State.placeWord_sp (op : Word) : (s.placeWord op).sp = s.sp := rfl
@[simp] theorem State.placeWord_dt (op : Word) : (s.placeWord op).dt = s.dt := rfl
@[simp] theorem State.placeWord_st (op : Word) : (s.placeWord op).st = s.st := rfl
@[simp] theorem State.placeWord_mem (op : Word) : (s.placeWord op).mem = s.mem.writeAll s.pc.toNat (bytesOfWord op) := rfl
@[simp] theorem State.placeWord_fb (op : Word) : (s.placeWord op).fb = s.fb := rfl
@[simp] theorem State.placeWord_dirty (op : Word) : (s.placeWord op).dirty = s.dirty := rfl
@[simp] theorem State.placeWord_keys (op : Word) : (s.placeWord op).keys = s.keys := rfl
@[simp] theorem State.placeWord_status (op : Word) : (s.placeWord op).status = s.status := rfl
@[simp] theorem State.placeWord_inputs (op : Word) : (s.placeWord op).inputs = s.inputs := rfl
@[simp] theorem State.placeWord_ticks (op : Word) : (s.placeWord op).ticks = s.ticks := rfl
@[simp] theorem State.placeWord_events (op : Word) : (s.placeWord op).events = s.events := rfl

/-! ### present -/

@[simp] theorem State.present_v : s.present.v = s.v := by
  unfold State.present; split <;> rfl
@[simp] theorem State.present_i : s.present.i = s.i := by
  unfold State.present; split <;> rfl
@[simp] theorem State.present_pc : s.present.pc = s.pc := by
  unfold State.present; split <;> rfl
@[simp] theorem State.present_stack : s.present.stack = s.stack := by
  unfold State.present; split <;> rfl
@[simp] theorem State.present_sp : s.present.sp = s.sp := by
  unfold State.present; split <;> rfl
@[simp] theorem State.present_dt : s.present.dt = s.dt := by
  unfold State.present; split <;> rfl
@[simp] theorem State.present_st : s.present.st = s.st := by
  unfold State.present; split <;> rfl
@[simp] theorem State.present_mem : s.present.mem = s.mem := by
  unfold State.present; split <;> rfl
@[simp] theorem State.present_fb : s.present.fb = s.fb := by
  unfold State.present; split <;> rfl
@[simp] theorem State.present_dirty : s.present.dirty = false := by
  unfold State.present; split <;> simp_all
@[simp] theorem State.present_keys : s.present.keys = s.keys := by
  unfold State.present; split <;> rfl
@[simp] theorem State.present_status : s.present.status = s.status := by
  unfold State.present; split <;> rfl
@[simp] theorem State.present_inputs : s.present.inputs = s.inputs := by
  unfold State.present; split <;> rfl
@[simp] theorem State.present_ticks : s.present.ticks = s.ticks := by
  unfold State.present; split <;> rfl
@[simp] theorem State.present_events :
    s.present.events = if s.dirty then .present s.fb :: s.events else s.events := by
  unfold State.present; split <;> rfl

/-! ### setVsFrom -/

@[simp] theorem State.setVsFrom_i (k : Nat) (bs : List Byte) : (s.setVsFrom k bs).i = s.i := by
  induction bs generalizing s k with
  | nil => rfl
  | cons b bs ih => simp [State.setVsFrom, ih]
@[simp] theorem State.setVsFrom_pc (k : Nat) (bs : List Byte) : (s.setVsFrom k bs).pc = s.pc := by
  induction bs generalizing s k with
  | nil => rfl
  | cons b bs ih => simp [State.setVsFrom, ih]
@[simp] theorem State.setVsFrom_stack (k : Nat) (bs : List Byte) : (s.setVsFrom k bs).stack = s.stack := by
  induction bs generalizing s k with
  | nil => rfl
  | cons b bs ih => simp [State.setVsFrom, ih]
@[simp] theorem State.setVsFrom_sp (k : Nat) (bs : List Byte) : (s.setVsFrom k bs).sp = s.sp := by
  induction bs generalizing s k with
  | nil => rfl
  | cons b bs ih => simp [State.setVsFrom, ih]
@[simp] theorem State.setVsFrom_dt (k : Nat) (bs : List Byte) : (s.setVsFrom k bs).dt = s.dt := by
  induction bs generalizing s k with
  | nil => rfl
  | cons b bs ih => simp [State.setVsFrom, ih]
@[simp] theorem State.setVsFrom_st (k : Nat) (bs : List Byte) : (s.setVsFrom k bs).st = s.st := by
  induction bs generalizing s k with
  | nil => rfl
  | cons b bs ih => simp [State.setVsFrom, ih]
@[simp] theorem State.setVsFrom_mem (k : Nat) (bs : List Byte) : (s.setVsFrom k bs).mem = s.mem := by
  induction bs generalizing s k with
  | nil => rfl
  | cons b bs ih => simp [State.setVsFrom, ih]
@[simp] theorem State.setVsFrom_fb (k : Nat) (bs : List Byte) : (s.setVsFrom k bs).fb = s.fb := by
  induction bs generalizing s k with
  | nil => rfl
  | cons b bs ih => simp [State.setVsFrom, ih]
@[simp] theorem State.setVsFrom_dirty (k : Nat) (bs : List Byte) : (s.setVsFrom k bs).dirty = s.dirty := by
  induction bs generalizing s k with
  | nil => rfl
  | cons b bs ih => simp [State.setVsFrom, ih]
@[simp] theorem State.setVsFrom_keys (k : Nat) (bs : List Byte) : (s.setVsFrom k bs).keys = s.keys := by
  induction bs generalizing s k with
  | nil => rfl
  | cons b bs ih => simp [State.setVsFrom, ih]
@[simp] theorem State.setVsFrom_status (k : Nat) (bs : List Byte) : (s.setVsFrom k bs).status = s.status := by
  induction bs generalizing s k with
  | nil => rfl
  | cons b bs ih => simp [State.setVsFrom, ih]
@[simp] theorem State.setVsFrom_inputs (k : Nat) (bs : List Byte) : (s.setVsFrom k bs).inputs = s.inputs := by
  induction bs generalizing s k with
  | nil => rfl
  | cons b bs ih => simp [State.setVsFrom, ih]
@[simp] theorem State.setVsFrom_ticks (k : Nat) (bs : List Byte) : (s.setVsFrom k bs).ticks = s.ticks := by
  induction bs generalizing s k with
  | nil => rfl
  | cons b bs ih => simp [State.setVsFrom, ih]
@[simp] theorem State.setVsFrom_events (k : Nat) (bs : List Byte) : (s.setVsFrom k bs).events = s.events := by
  induction bs generalizing s k with
  | nil => rfl
  | cons b bs ih => simp [State.setVsFrom, ih]

/-! ### takeKey: only `v` and `pc` can change -/

@[simp] theorem State.takeKey_i (x : Nibble) : (s.takeKey x).i = s.i := by
  unfold State.takeKey; split <;> rfl
@[simp] theorem State.takeKey_stack (x : Nibble) : (s.takeKey x).stack = s.stack := by
  unfold State.takeKey; split <;> rfl
@[simp] theorem State.takeKey_sp (x : Nibble) : (s.takeKey x).sp = s.sp := by
  unfold State.takeKey; split <;> rfl
@[simp] theorem State.takeKey_dt (x : Nibble) : (s.takeKey x).dt = s.dt := by
  unfold State.takeKey; split <;> rfl
@[simp] theorem State.takeKey_st (x : Nibble) : (s.takeKey x).st = s.st := by
  unfold State.takeKey; split <;> rfl
@[simp] theorem State.takeKey_mem (x : Nibble) : (s.takeKey x).mem = s.mem := by
  unfold State.takeKey; split <;> rfl
@[simp] theorem State.takeKey_fb (x : Nibble) : (s.takeKey x).fb = s.fb := by
  unfold State.takeKey; split <;> rfl
@[simp] theorem State.takeKey_dirty (x : Nibble) : (s.takeKey x).dirty = s.dirty := by
  unfold State.takeKey; split <;> rfl
@[simp] theorem State.takeKey_keys (x : Nibble) : (s.takeKey x).keys = s.keys := by
  unfold State.takeKey; split <;> rfl
@[simp] theorem State.takeKey_status (x : Nibble) : (s.takeKey x).status = s.status := by
  unfold State.takeKey; split <;> rfl
@[simp] theorem State.takeKey_inputs (x : Nibble) : (s.takeKey x).inputs = s.inputs := by
  unfold State.takeKey; split <;> rfl
@[simp] theorem State.takeKey_ticks (x : Nibble) : (s.takeKey x).ticks = s.ticks := by
  unfold State.takeKey; split <;> rfl
@[simp] theorem State.takeKey_events (x : Nibble) : (s.takeKey x).events = s.events := by
  unfold State.takeKey; split <;> rfl

/-! ### State.reset at the values of RESET_ZERO (D2) -/

@[simp] theorem State.reset_sp : State.reset.sp = 0 := rfl
@[simp] theorem State.reset_dirty : State.reset.dirty = false := rfl
@[simp] theorem State.reset_fb : State.reset.fb = blankFrame := rfl

end Sys2Proof.Machine
end

