-- ==== Sys2Proof/Laws/Display.lean ====
section
/-! SUPPORT. The frame buffer: one pixel after a flip, and one bit of the blit. -/

namespace Sys2Proof.Machine

/-- A pixel after a flip: inverted at the flipped place, unchanged elsewhere. -/
theorem FrameBuffer.pixel_flip (fb : FrameBuffer) (r r' : Fin 32) (c c' : Fin 64) :
    FrameBuffer.pixel (FrameBuffer.flip fb r c) r' c' =
      if r' = r ∧ c' = c then !FrameBuffer.pixel fb r' c' else FrameBuffer.pixel fb r' c' := by
  simp only [FrameBuffer.pixel, FrameBuffer.flip, Fin.getElem_fin, Vector.getElem_set]
  by_cases hr : r = r'
  · subst hr
    by_cases hc : c = c'
    · subst hc; simp
    · have h : c.val ≠ c'.val := fun e => hc (Fin.ext e)
      have h' : ¬ c' = c := fun e => hc e.symm
      simp [h, h']
  · have h : r.val ≠ r'.val := fun e => hr (Fin.ext e)
    have h' : ¬ r' = r := fun e => hr e.symm
    simp [h, h']

/-- Two frame buffers with the same pixels are equal. -/
theorem FrameBuffer.ext_pixel {fb fb' : FrameBuffer} (h : ∀ r c, FrameBuffer.pixel fb r c = FrameBuffer.pixel fb' r c) : fb = fb' := by
  apply Vector.ext
  intro r hr
  apply Vector.ext
  intro c hc
  exact h ⟨r, hr⟩ ⟨c, hc⟩

@[simp] theorem FrameBuffer.pixel_blank (r : Fin 32) (c : Fin 64) : FrameBuffer.pixel blankFrame r c = false := by
  simp [FrameBuffer.pixel, blankFrame]

/-- One pixel after one bit of the blit (R151). -/
theorem blitBit_pixel (x y j : Nat) (b : Byte) (acc : FrameBuffer × Bool) (i : Nat) (r : Fin 32) (c : Fin 64) :
    FrameBuffer.pixel (blitBit x y j b acc i).1 r c =
      (FrameBuffer.pixel acc.1 r c ^^ (b.getLsbD (7 - i) && decide (r = blitRow y j) && decide (c = blitCol x i))) := by
  unfold blitBit
  by_cases hb : b.getLsbD (7 - i)
  · simp only [hb, if_true, FrameBuffer.pixel_flip]
    by_cases hr : r = blitRow y j <;> by_cases hc : c = blitCol x i <;> simp [hr, hc]
  · simp [hb]

/-- The collision flag after one bit of the blit (R151). -/
theorem blitBit_collision (x y j : Nat) (b : Byte) (acc : FrameBuffer × Bool) (i : Nat) :
    (blitBit x y j b acc i).2 =
      (acc.2 || (b.getLsbD (7 - i) && FrameBuffer.pixel acc.1 (blitRow y j) (blitCol x i))) := by
  unfold blitBit
  by_cases hb : b.getLsbD (7 - i) <;> simp [hb]

end Sys2Proof.Machine
end

