-- ==== Sys2Proof/Laws/Memory.lean ====
section
/-! SUPPORT. Memory: reads after writes, the canonical form, and what the checked load and store can answer. -/

namespace Sys2Proof.Machine

/-! ## One byte -/

theorem Memory.lookup_filter_ne (m : Memory) (a c : Nat) :
    (m.filter (fun p => p.1 != a)).lookup c = if c = a then none else m.lookup c := by
  induction m with
  | nil => simp
  | cons p m ih =>
    obtain ⟨k, b⟩ := p
    by_cases hk : k = a
    · subst hk
      simp only [List.filter, bne_self_eq_false, ih, List.lookup]
      by_cases hc : c = k
      · simp [hc]
      · have : (c == k) = false := by simp [hc]
        simp [hc, this]
    · have : (k != a) = true := by simp [hk]
      simp only [List.filter, this, List.lookup, ih]
      by_cases hc : c = k
      · subst hc; simp [hk]
      · have : (c == k) = false := by simp [hc]
        simp [this]

theorem Memory.lookup_insertCell (m : Memory) (a : Nat) (b : Byte) (h : m.lookup a = none) (c : Nat) :
    (Memory.insertCell a b m).lookup c = if c = a then some b else m.lookup c := by
  induction m with
  | nil =>
    by_cases hc : c = a
    · simp [Memory.insertCell, hc]
    · have : (c == a) = false := by simp [hc]
      simp [Memory.insertCell, List.lookup, hc, this]
  | cons p m ih =>
    obtain ⟨k, w⟩ := p
    simp only [Memory.insertCell]
    split
    · by_cases hc : c = a
      · simp [hc, List.lookup]
      · have : (c == a) = false := by simp [hc]
        simp [List.lookup, hc, this]
    · have hak : (a == k) = false := by
        by_contra hh
        simp only [Bool.not_eq_false, beq_iff_eq] at hh
        simp [hh, List.lookup] at h
      simp only [List.lookup, hak] at h ⊢
      rw [ih h]
      by_cases hc : c = k
      · subst hc
        have : c ≠ a := by
          intro e; subst e; simp at hak
        simp [this]
      · have : (c == k) = false := by simp [hc]
        simp [this]

/-- A read after a write inside memory: the written byte there, what stood there elsewhere. -/
theorem Memory.read_write (m : Memory) (a : Nat) (b : Byte) (h : a ≤ 0xFFF) (c : Nat) :
    (m.write a b).read c = if c = a then b else m.read c := by
  have hf := Memory.lookup_filter_ne m a
  simp only [Memory.write, h, if_true, Memory.read]
  split
  · next hb =>
    rw [hf c]
    by_cases hc : c = a
    · simp [hc, hb]
    · simp [hc]
  · rw [Memory.lookup_insertCell _ _ _ (by simp [hf]), hf c]
    by_cases hc : c = a <;> simp [hc]

/-- A write above 0xFFF writes nothing. -/
theorem Memory.write_outside (m : Memory) (a : Nat) (b : Byte) (h : ¬ a ≤ 0xFFF) : m.write a b = m := by
  simp only [Memory.write, h, if_false]

/-! ## The canonical form -/

theorem Memory.mem_insertCell {m : Memory} {a : Nat} {b : Byte} {c : Host.Cell}
    (h : c ∈ Memory.insertCell a b m) : c = (a, b) ∨ c ∈ m := by
  induction m with
  | nil => simpa [Memory.insertCell] using h
  | cons p m ih =>
    simp only [Memory.insertCell] at h
    split at h
    · simpa using h
    · rcases List.mem_cons.mp h with h | h
      · exact .inr (by simp [h])
      · rcases ih h with h | h
        · exact .inl h
        · exact .inr (by simp [h])

theorem Memory.insertCell_sorted {m : Memory} (a : Nat) (b : Byte) (hm : m.Pairwise (fun p q => p.1 < q.1))
    (ha : ∀ c ∈ m, c.1 ≠ a) : (Memory.insertCell a b m).Pairwise (fun p q => p.1 < q.1) := by
  induction m with
  | nil => simp [Memory.insertCell]
  | cons p m ih =>
    rw [List.pairwise_cons] at hm
    simp only [Memory.insertCell]
    split
    · next hlt =>
      refine List.pairwise_cons.mpr ⟨fun q hq => ?_, List.pairwise_cons.mpr hm⟩
      rcases List.mem_cons.mp hq with rfl | hq
      · exact hlt
      · exact Nat.lt_trans hlt (hm.1 q hq)
    · next hge =>
      refine List.pairwise_cons.mpr ⟨fun q hq => ?_, ih hm.2 fun c hc => ha c (by simp [hc])⟩
      have hpa : p.1 ≠ a := ha p (by simp)
      rcases Memory.mem_insertCell hq with rfl | hq
      · show p.1 < a
        omega
      · exact hm.1 q hq

/-- A write keeps the canonical form. -/
theorem Memory.write_wf {m : Memory} (a : Nat) (b : Byte) (hm : m.wf) : (m.write a b).wf := by
  unfold Memory.write
  split
  · next ha =>
    have hs : (m.filter fun c => c.1 != a).Pairwise (fun p q => p.1 < q.1) := hm.1.filter _
    have hc : ∀ c ∈ m.filter (fun c => c.1 != a), c.1 ≤ 0xFFF ∧ c.2 ≠ unlistedByte c.1 :=
      fun c hc => hm.2 c (List.mem_of_mem_filter hc)
    split
    · exact ⟨hs, hc⟩
    · next hb =>
      refine ⟨Memory.insertCell_sorted a b hs fun c hc => ?_, fun c hm' => ?_⟩
      · simpa using (List.mem_filter.mp hc).2
      · rcases Memory.mem_insertCell hm' with rfl | hm'
        · exact ⟨ha, hb⟩
        · exact hc c hm'
  · exact hm

theorem Memory.writeAll_wf {m : Memory} (a : Nat) (bs : List Byte) (hm : m.wf) : (m.writeAll a bs).wf := by
  induction bs generalizing m a with
  | nil => exact hm
  | cons b bs ih => exact ih (a + 1) (Memory.write_wf a b hm)

theorem Memory.storeAll_wf {m : Memory} (a : Nat) (bs : List Byte) (hm : m.wf) : (m.storeAll a bs).wf := by
  induction bs generalizing m a with
  | nil => exact hm
  | cons b bs ih => exact ih (a + 1) (Memory.write_wf _ b hm)

/-- Nothing is listed at reset, so memory is in canonical form. -/
theorem State.reset_mem_wf : State.reset.mem.wf := by
  constructor <;> simp [State.reset]

/-! ## Runs of bytes -/

@[simp] theorem effectiveAddr_eq (a : Nat) : effectiveAddr a = a := rfl

/-- Loading bytes from `a` on: bytes past 0xFFF are dropped, every other address keeps its byte (R43). -/
theorem Memory.read_writeAll (m : Memory) (a : Nat) (bs : List Byte) (c : Nat) :
    (m.writeAll a bs).read c =
      if a ≤ c ∧ c < a + bs.length ∧ c ≤ 0xFFF then bs.getD (c - a) 0 else m.read c := by
  induction bs generalizing m a with
  | nil => simp [Memory.writeAll]; omega
  | cons b bs ih =>
    rw [Memory.writeAll, ih, List.length_cons]
    by_cases h1 : a + 1 ≤ c ∧ c < a + 1 + bs.length ∧ c ≤ 0xFFF
    · rw [if_pos h1, if_pos (by omega)]
      obtain ⟨d, hd⟩ : ∃ d, c - a = d + 1 := ⟨c - a - 1, by omega⟩
      rw [hd, List.getD_cons_succ]
      congr 1; omega
    · rw [if_neg h1]
      by_cases ha : a ≤ 0xFFF
      · rw [Memory.read_write _ _ _ ha]
        by_cases hc : c = a
        · subst hc
          simp [ha]
        · rw [if_neg hc, if_neg (by omega)]
      · rw [Memory.write_outside _ _ _ ha, if_neg (by omega)]

/-- Storing where addresses go is loading there, as addresses are taken as they are. -/
theorem Memory.storeAll_eq_writeAll (m : Memory) (a : Nat) (bs : List Byte) : m.storeAll a bs = m.writeAll a bs := by
  induction bs generalizing m a with
  | nil => rfl
  | cons b bs ih => simp [Memory.storeAll, Memory.writeAll, ih]

/-! ## The checked accesses -/

/-- The range test answers MemRange exactly when a byte lies above 0xFFF (R46, R171). -/
theorem rangeFault_eq (base len : Nat) :
    rangeFault base len = if 0 < len ∧ 0xFFF < base + len - 1 then some (.memRange (max base 0x1000)) else none := rfl

/-- Everything a load can answer. -/
theorem State.load_eq (s : State) (base len : Nat) :
    s.load base len =
      if 0 < len ∧ 0xFFF < base + len - 1 then .error (.memRange (max base 0x1000))
      else .ok ((List.range len).map fun k => s.mem.read (base + k)) := by
  unfold State.load
  rw [rangeFault_eq]
  by_cases h : 0 < len ∧ 0xFFF < base + len - 1 <;> simp [h]

/-- Everything a store can answer. -/
theorem State.store_eq (s : State) (base : Nat) (bs : List Byte) :
    s.store base bs =
      if 0 < bs.length ∧ 0xFFF < base + bs.length - 1 then .error (.memRange (max base 0x1000))
      else .ok { s with mem := s.mem.writeAll base bs } := by
  unfold State.store
  rw [rangeFault_eq, Memory.storeAll_eq_writeAll]
  by_cases h : 0 < bs.length ∧ 0xFFF < base + bs.length - 1 <;> simp [h]

/-- Everything a fetch can answer (R47). -/
theorem State.fetch_eq (s : State) :
    s.fetch = if 0xFFE < s.pc.toNat then .error (.fetchRange s.pc)
      else .ok (wordOfBytes (s.mem.read s.pc.toNat) (s.mem.read (s.pc.toNat + 1))) := rfl

end Sys2Proof.Machine
end

