-- ==== Sys2Proof/Laws/Registers.lean ====
section
/-! SUPPORT. The register file: reads after writes, through every update of the state, and the block moves of STM and LDM. -/

namespace Sys2Proof.Machine

theorem State.getV_congr {s t : State} (h : t.v = s.v) (x : Nibble) : t.getV x = s.getV x := by
  simp only [State.getV, h]

/-- A read after a write: the written register, or what stood there. -/
theorem State.getV_setV (s : State) (x y : Nibble) (b : Byte) :
    (s.setV x b).getV y = if x = y then b else s.getV y := by
  simp only [State.getV, State.setV_v, Vector.getElem_set, BitVec.toNat_inj]

@[simp] theorem State.getV_setV_self (s : State) (x : Nibble) (b : Byte) : (s.setV x b).getV x = b := by
  simp [State.getV_setV]

theorem State.getV_setV_of_ne (s : State) {x y : Nibble} (b : Byte) (h : x ≠ y) :
    (s.setV x b).getV y = s.getV y := by
  simp [State.getV_setV, h]

@[simp] theorem State.getV_setPc (s : State) (a : Word) (x : Nibble) : (s.setPc a).getV x = s.getV x := rfl
@[simp] theorem State.getV_advance (s : State) (k : Word) (x : Nibble) : (s.advance k).getV x = s.getV x := rfl
@[simp] theorem State.getV_skipIf (s : State) (c : Bool) (x : Nibble) : (s.skipIf c).getV x = s.getV x := rfl
@[simp] theorem State.getV_raise (s : State) (f : Fault) (x : Nibble) : (s.raise f).getV x = s.getV x := rfl
@[simp] theorem State.getV_push (s : State) (a : Word) (x : Nibble) : (s.push a).getV x = s.getV x := rfl
@[simp] theorem State.getV_bumpI (s : State) (k x : Nibble) : (s.bumpI k).getV x = s.getV x := rfl
@[simp] theorem State.getV_emit (s : State) (e : Event) (x : Nibble) : (s.emit e).getV x = s.getV x := rfl
@[simp] theorem State.getV_unrecognized (s : State) (op : Word) (x : Nibble) :
    (s.unrecognized op).getV x = s.getV x := rfl
@[simp] theorem State.getV_sampleKeys (s : State) (x : Nibble) : s.sampleKeys.getV x = s.getV x := rfl
@[simp] theorem State.getV_countTimers (s : State) (x : Nibble) : s.countTimers.getV x = s.getV x := rfl
@[simp] theorem State.getV_pace (s : State) (x : Nibble) : s.pace.getV x = s.getV x := rfl
@[simp] theorem State.getV_quit (s : State) (x : Nibble) : s.quit.getV x = s.getV x := rfl
@[simp] theorem State.getV_present (s : State) (x : Nibble) : s.present.getV x = s.getV x :=
  State.getV_congr (by simp) x

/-- Writing `V[k]`, `V[k + 1]`, … : register `r` takes its byte when it lies in the block, and is unchanged otherwise. -/
theorem State.getV_setVsFrom (s : State) (k : Nat) (bs : List Byte) (h : k + bs.length ≤ 16) (r : Nibble) :
    (s.setVsFrom k bs).getV r =
      if k ≤ r.toNat ∧ r.toNat < k + bs.length then bs.getD (r.toNat - k) 0 else s.getV r := by
  induction bs generalizing s k with
  | nil => simp [State.setVsFrom]
  | cons b bs ih =>
    simp only [List.length_cons] at h
    simp only [State.setVsFrom, List.length_cons]
    rw [ih (s.setV (BitVec.ofNat 4 k) b) (k + 1) (by omega), State.getV_setV]
    have hk : (BitVec.ofNat 4 k = r) ↔ k = r.toNat := by
      rw [← BitVec.toNat_inj, BitVec.toNat_ofNat, Nat.mod_eq_of_lt (by omega)]
    simp only [hk]
    by_cases h1 : k = r.toNat
    · subst h1
      simp
    · simp only [h1, if_false]
      by_cases h2 : k + 1 ≤ r.toNat ∧ r.toNat < k + 1 + bs.length
      · rw [if_pos h2, if_pos (by omega)]
        obtain ⟨d, hd⟩ : ∃ d, r.toNat - k = d + 1 := ⟨r.toNat - k - 1, by omega⟩
        rw [hd, List.getD_cons_succ]
        congr 1; omega
      · rw [if_neg h2, if_neg (by omega)]

@[simp] theorem State.length_firstVs (s : State) (n : Nat) : (s.firstVs n).length = n := by
  simp [State.firstVs]

/-- The registers STM stores, in order. -/
theorem State.firstVs_getD (s : State) (n k : Nat) (h : k < n) :
    (s.firstVs n).getD k 0 = s.getV (BitVec.ofNat 4 k) := by
  simp [State.firstVs, List.getD, h]

end Sys2Proof.Machine
end

