-- ==== Sys2Proof/Laws/Ops.lean ====
section
/-! SUPPORT. What each remaining shared operation can answer: the fault wrapper, the stack, the key operands, the end of a tick, the inputs of
a tick. -/

namespace Sys2Proof.Machine

@[simp] theorem orRaise_ok {α : Type} (s : State) (a : α) (e : α → State) : orRaise s (.ok a) e = .next (e a) := rfl
@[simp] theorem orRaise_error {α : Type} (s : State) (f : Fault) (e : α → State) :
    orRaise s (.error f) e = .next (s.raise f) := rfl

/-- An instruction that may fault answers a next state: its effect, or the fault entered and nothing else. -/
theorem orRaise_next {α : Type} {s t : State} {r : Except Fault α} {e : α → State} (h : orRaise s r e = .next t) :
    (∃ a, r = .ok a ∧ t = e a) ∨ (∃ f, r = .error f ∧ t = s.raise f) := by
  cases r with
  | ok a => exact .inl ⟨a, rfl, by simpa using h.symm⟩
  | error f => exact .inr ⟨f, rfl, by simpa using h.symm⟩

/-- The pop of an empty stack faults (R100). -/
theorem State.pop_empty (s : State) (h : s.sp = 0) : s.pop = .error (.stackUnderflow s.pc) := by
  simp only [State.pop, h]; rfl

/-- The pop of a stack with `k + 1` frames answers slot `k` and leaves `sp = k` (R100). -/
theorem State.pop_succ (s : State) (k : Nat) (hk : k < 16) (h : s.sp.val = k + 1) :
    s.pop = .ok (s.stack[k], { s with sp := ⟨k, by omega⟩ }) := by
  have : s.sp = ⟨k + 1, by omega⟩ := Fin.ext h
  simp only [State.pop, this]

/-- The key index: the register value when it names a key, KeyRange otherwise (R160). -/
theorem keyIndex_eq (b : Byte) :
    keyIndex b = if h : b.toNat < 16 then .ok ⟨b.toNat, h⟩ else .error (.keyRange b) := rfl

/-- Key `k` of a sample is bit `k` (R82). -/
@[simp] theorem keysOfWord_getElem (w : Word) (k : Nat) (h : k < 16) : (keysOfWord w)[k] = w.getLsbD k := by
  simp [keysOfWord, BitVec.getLsbD_eq_getElem h]

/-- The scan finds the least held key (R163). -/
theorem State.firstKey_some {s : State} {k : Fin 16} :
    s.firstKey = some k ↔ s.keys[k] = true ∧ ∀ j : Fin 16, j < k → s.keys[j] = false := by
  unfold State.firstKey
  rw [List.find?_eq_some_iff_getElem]
  constructor
  · rintro ⟨hk, i, hi, rfl, hlt⟩
    refine ⟨hk, fun j hj => ?_⟩
    have hj' : j.val < i := by simpa [Fin.lt_def] using hj
    simpa using hlt j.val hj'
  · rintro ⟨hk, hlt⟩
    refine ⟨hk, k.val, by simp, by simp, fun j hj => ?_⟩
    have := hlt ⟨j, by omega⟩ (by simpa [Fin.lt_def] using hj)
    simpa using this

/-- The scan finds nothing exactly when no key is held. -/
theorem State.firstKey_none {s : State} : s.firstKey = none ↔ ∀ k : Fin 16, s.keys[k] = false := by
  simp [State.firstKey, List.find?_eq_none]

/-- Everything the key scan of WAITKEY can do (R163). -/
theorem State.takeKey_of_firstKey {s : State} {k : Fin 16} (h : s.firstKey = some k) (x : Nibble) :
    s.takeKey x = (s.setV x (BitVec.ofNat 8 k.val)).advance 2#16 := by
  simp only [State.takeKey, h]
theorem State.takeKey_of_none {s : State} (h : s.firstKey = none) (x : Nibble) : s.takeKey x = s := by
  simp only [State.takeKey, h]
/-- The cases of the key scan. -/
theorem State.takeKey_cases (s : State) (x : Nibble) :
    (∃ k, s.firstKey = some k ∧ s.takeKey x = (s.setV x (BitVec.ofNat 8 k.val)).advance 2#16) ∨
      (s.firstKey = none ∧ s.takeKey x = s) := by
  cases h : s.firstKey with
  | some k => exact .inl ⟨k, rfl, State.takeKey_of_firstKey h x⟩
  | none => exact .inr ⟨rfl, State.takeKey_of_none h x⟩

/-- A timer steps down by one and stops at zero (R89). -/
theorem countDown_toNat (b : Byte) : (countDown b).toNat = b.toNat - 1 := by
  unfold countDown
  split
  · next h => simp [h]
  · next h =>
    have : 0 < b.toNat := by
      rcases Nat.eq_zero_or_pos b.toNat with h0 | h0
      · exact absurd (BitVec.eq_of_toNat_eq (by simpa using h0)) h
      · exact h0
    have hb := b.isLt
    rw [BitVec.toNat_sub]
    have h1 : (1#8).toNat = 1 := rfl
    omega

/-- The end of the tick of a machine that still runs (R88 to R90). -/
theorem State.finishTick_running {s : State} (h : s.status = .running) :
    s.finishTick = s.present.countTimers.pace := by
  simp [State.finishTick, h]

/-- A faulted tick ends as it is (R91). -/
theorem State.finishTick_faulted {s : State} (h : s.status ≠ .running) : s.finishTick = s := by
  simp [State.finishTick, h]

@[simp] theorem finishOutcome_next (t : State) : finishOutcome (.next t) = .next t.finishTick := rfl

/-- With a script, the tick's inputs are its first record: any quit request, keys and random byte (R81, R82, R131). -/
theorem State.tickIn_cons (s : State) (t : TickIn) (ts : List TickIn) (h : s.inputs = t :: ts) : s.tickIn = t := by
  simp [State.tickIn, h]

/-- Without one, all three are free. -/
theorem State.tickIn_nil (s : State) (h : s.inputs = []) : s.tickIn = freeTick s.ticks := by
  simp [State.tickIn, h]

/-- A placed instruction's tick has no quit request. -/
@[simp] theorem State.withFetchWord_quit (s : State) (nbits w : Nat) : (s.withFetchWord nbits w).tickIn.quit = false := rfl

end Sys2Proof.Machine
end

