-- ==== Sys2Proof/Laws/PerInstr.lean ====
section
/-! SUPPORT. Statements made per instruction. `MatchesRow`: the word an instruction is encoded to matches the instruction's own row of
spec/30_encoding.md R64, mask and pattern. -/

namespace Sys2Proof.Laws.MatchesRow

/-- The encoding of `i` lies in the row of R64 that `i` stands for. -/
def Statement (i : Instr) : Prop :=
  ∃ r ∈ opcodeTable, r.mnemonic = mnemonicOf i ∧ r.matchesWord (encode i) = true

theorem cls : Statement (.cls) :=
  ⟨⟨"CLS", 0x00E0#16, 0xF0FF#16⟩, by decide, rfl, by decide⟩

theorem ret : Statement (.ret) :=
  ⟨⟨"RET", 0x00EE#16, 0xF0FF#16⟩, by decide, rfl, by decide⟩

theorem unrec0 (low : Low12) : Statement (.unrec0 low) :=
  ⟨⟨"UNREC_0", 0x0000#16, 0xF000#16⟩, by decide, rfl, by
    simp only [OpcodeRow.matchesWord, encode, encNNN_and_F000]
    decide⟩

theorem jp (nnn : Low12) : Statement (.jp nnn) :=
  ⟨⟨"JP", 0x1000#16, 0xF000#16⟩, by decide, rfl, by
    simp only [OpcodeRow.matchesWord, encode, encNNN_and_F000]
    decide⟩

theorem call (nnn : Low12) : Statement (.call nnn) :=
  ⟨⟨"CALL", 0x2000#16, 0xF000#16⟩, by decide, rfl, by
    simp only [OpcodeRow.matchesWord, encode, encNNN_and_F000]
    decide⟩

theorem seImm (x : Nibble) (nn : Byte) : Statement (.seImm x nn) :=
  ⟨⟨"SE_IMM", 0x3000#16, 0xF000#16⟩, by decide, rfl, by
    simp only [OpcodeRow.matchesWord, encode, encXNN_and_F000]
    decide⟩

theorem sneImm (x : Nibble) (nn : Byte) : Statement (.sneImm x nn) :=
  ⟨⟨"SNE_IMM", 0x4000#16, 0xF000#16⟩, by decide, rfl, by
    simp only [OpcodeRow.matchesWord, encode, encXNN_and_F000]
    decide⟩

theorem seReg (x y : Nibble) : Statement (.seReg x y) :=
  ⟨⟨"SE_REG", 0x5000#16, 0xF000#16⟩, by decide, rfl, by
    simp only [OpcodeRow.matchesWord, encode, encXYN_and_F000]
    decide⟩

theorem ldImm (x : Nibble) (nn : Byte) : Statement (.ldImm x nn) :=
  ⟨⟨"LD_IMM", 0x6000#16, 0xF000#16⟩, by decide, rfl, by
    simp only [OpcodeRow.matchesWord, encode, encXNN_and_F000]
    decide⟩

theorem addImm (x : Nibble) (nn : Byte) : Statement (.addImm x nn) :=
  ⟨⟨"ADD_IMM", 0x7000#16, 0xF000#16⟩, by decide, rfl, by
    simp only [OpcodeRow.matchesWord, encode, encXNN_and_F000]
    decide⟩

theorem mov (x y : Nibble) : Statement (.mov x y) :=
  ⟨⟨"MOV", 0x8000#16, 0xF00F#16⟩, by decide, rfl, by
    simp only [OpcodeRow.matchesWord, encode, encXYN_and_F00F]
    decide⟩

theorem orReg (x y : Nibble) : Statement (.orReg x y) :=
  ⟨⟨"OR", 0x8001#16, 0xF00F#16⟩, by decide, rfl, by
    simp only [OpcodeRow.matchesWord, encode, encXYN_and_F00F]
    decide⟩

theorem andReg (x y : Nibble) : Statement (.andReg x y) :=
  ⟨⟨"AND", 0x8002#16, 0xF00F#16⟩, by decide, rfl, by
    simp only [OpcodeRow.matchesWord, encode, encXYN_and_F00F]
    decide⟩

theorem xorReg (x y : Nibble) : Statement (.xorReg x y) :=
  ⟨⟨"XOR", 0x8003#16, 0xF00F#16⟩, by decide, rfl, by
    simp only [OpcodeRow.matchesWord, encode, encXYN_and_F00F]
    decide⟩

theorem addReg (x y : Nibble) : Statement (.addReg x y) :=
  ⟨⟨"ADD_REG", 0x8004#16, 0xF00F#16⟩, by decide, rfl, by
    simp only [OpcodeRow.matchesWord, encode, encXYN_and_F00F]
    decide⟩

theorem sub (x y : Nibble) : Statement (.sub x y) :=
  ⟨⟨"SUB", 0x8005#16, 0xF00F#16⟩, by decide, rfl, by
    simp only [OpcodeRow.matchesWord, encode, encXYN_and_F00F]
    decide⟩

theorem shr (x : Nibble) : Statement (.shr x) :=
  ⟨⟨"SHR", 0x8006#16, 0xF00F#16⟩, by decide, rfl, by
    simp only [OpcodeRow.matchesWord, encode, encXYN_and_F00F]
    decide⟩

theorem subn (x y : Nibble) : Statement (.subn x y) :=
  ⟨⟨"SUBN", 0x8007#16, 0xF00F#16⟩, by decide, rfl, by
    simp only [OpcodeRow.matchesWord, encode, encXYN_and_F00F]
    decide⟩

theorem shl (x : Nibble) : Statement (.shl x) :=
  ⟨⟨"SHL", 0x800E#16, 0xF00F#16⟩, by decide, rfl, by
    simp only [OpcodeRow.matchesWord, encode, encXYN_and_F00F]
    decide⟩

theorem unrec8 (low : Low12) : Statement (.unrec8 low) :=
  ⟨⟨"UNREC_8", 0x8000#16, 0xF000#16⟩, by decide, rfl, by
    simp only [OpcodeRow.matchesWord, encode, encNNN_and_F000]
    decide⟩

theorem sneReg (x y : Nibble) : Statement (.sneReg x y) :=
  ⟨⟨"SNE_REG", 0x9000#16, 0xF000#16⟩, by decide, rfl, by
    simp only [OpcodeRow.matchesWord, encode, encXYN_and_F000]
    decide⟩

theorem ldI (nnn : Low12) : Statement (.ldI nnn) :=
  ⟨⟨"LD_I", 0xA000#16, 0xF000#16⟩, by decide, rfl, by
    simp only [OpcodeRow.matchesWord, encode, encNNN_and_F000]
    decide⟩

theorem jpV0 (nnn : Low12) : Statement (.jpV0 nnn) :=
  ⟨⟨"JP_V0", 0xB000#16, 0xF000#16⟩, by decide, rfl, by
    simp only [OpcodeRow.matchesWord, encode, encNNN_and_F000]
    decide⟩

theorem rnd (x : Nibble) (nn : Byte) : Statement (.rnd x nn) :=
  ⟨⟨"RND", 0xC000#16, 0xF000#16⟩, by decide, rfl, by
    simp only [OpcodeRow.matchesWord, encode, encXNN_and_F000]
    decide⟩

theorem drw (x y n : Nibble) : Statement (.drw x y n) :=
  ⟨⟨"DRW", 0xD000#16, 0xF000#16⟩, by decide, rfl, by
    simp only [OpcodeRow.matchesWord, encode, encXYN_and_F000]
    decide⟩

theorem skp (x : Nibble) : Statement (.skp x) :=
  ⟨⟨"SKP", 0xE09E#16, 0xF0FF#16⟩, by decide, rfl, by
    simp only [OpcodeRow.matchesWord, encode, encXNN_and_F0FF]
    decide⟩

theorem sknp (x : Nibble) : Statement (.sknp x) :=
  ⟨⟨"SKNP", 0xE0A1#16, 0xF0FF#16⟩, by decide, rfl, by
    simp only [OpcodeRow.matchesWord, encode, encXNN_and_F0FF]
    decide⟩

theorem unrecE (low : Low12) : Statement (.unrecE low) :=
  ⟨⟨"UNREC_E", 0xE000#16, 0xF000#16⟩, by decide, rfl, by
    simp only [OpcodeRow.matchesWord, encode, encNNN_and_F000]
    decide⟩

theorem ldVxDt (x : Nibble) : Statement (.ldVxDt x) :=
  ⟨⟨"LD_VX_DT", 0xF007#16, 0xF0FF#16⟩, by decide, rfl, by
    simp only [OpcodeRow.matchesWord, encode, encXNN_and_F0FF]
    decide⟩

theorem waitkey (x : Nibble) : Statement (.waitkey x) :=
  ⟨⟨"WAITKEY", 0xF00A#16, 0xF0FF#16⟩, by decide, rfl, by
    simp only [OpcodeRow.matchesWord, encode, encXNN_and_F0FF]
    decide⟩

theorem ldDtVx (x : Nibble) : Statement (.ldDtVx x) :=
  ⟨⟨"LD_DT_VX", 0xF015#16, 0xF0FF#16⟩, by decide, rfl, by
    simp only [OpcodeRow.matchesWord, encode, encXNN_and_F0FF]
    decide⟩

theorem ldStVx (x : Nibble) : Statement (.ldStVx x) :=
  ⟨⟨"LD_ST_VX", 0xF018#16, 0xF0FF#16⟩, by decide, rfl, by
    simp only [OpcodeRow.matchesWord, encode, encXNN_and_F0FF]
    decide⟩

theorem addI (x : Nibble) : Statement (.addI x) :=
  ⟨⟨"ADD_I", 0xF01E#16, 0xF0FF#16⟩, by decide, rfl, by
    simp only [OpcodeRow.matchesWord, encode, encXNN_and_F0FF]
    decide⟩

theorem ldF (x : Nibble) : Statement (.ldF x) :=
  ⟨⟨"LD_F", 0xF029#16, 0xF0FF#16⟩, by decide, rfl, by
    simp only [OpcodeRow.matchesWord, encode, encXNN_and_F0FF]
    decide⟩

theorem bcd (x : Nibble) : Statement (.bcd x) :=
  ⟨⟨"BCD", 0xF033#16, 0xF0FF#16⟩, by decide, rfl, by
    simp only [OpcodeRow.matchesWord, encode, encXNN_and_F0FF]
    decide⟩

theorem stm (x : Nibble) : Statement (.stm x) :=
  ⟨⟨"STM", 0xF055#16, 0xF0FF#16⟩, by decide, rfl, by
    simp only [OpcodeRow.matchesWord, encode, encXNN_and_F0FF]
    decide⟩

theorem ldm (x : Nibble) : Statement (.ldm x) :=
  ⟨⟨"LDM", 0xF065#16, 0xF0FF#16⟩, by decide, rfl, by
    simp only [OpcodeRow.matchesWord, encode, encXNN_and_F0FF]
    decide⟩

theorem unrecF (low : Low12) : Statement (.unrecF low) :=
  ⟨⟨"UNREC_F", 0xF000#16, 0xF000#16⟩, by decide, rfl, by
    simp only [OpcodeRow.matchesWord, encode, encNNN_and_F000]
    decide⟩

end Sys2Proof.Laws.MatchesRow
end

