-- ==== Sys2Proof/Tests/Slice0.lean ====
section
/-! SUPPORT. Tests. The expected results are those of spec/95_test_vectors.md (a T- name is a vector, an S number a worked example of the source), and the words of
the decode tests are written out bit by bit from the encodings of spec/opcode_table.json. The theorems named witness_ show states and operands
that meet the hypotheses of a statement of Obligations.lean, at the boundaries of its clauses. -/

namespace Sys2Proof.Tests

open Sys2Proof Sys2Proof.Machine

set_option maxRecDepth 4000

/-! ## The small states of the vectors -/

/-- A vector's start state: reset, with a word stored at `pc`, registers set, bytes stored, and the inputs of its tick. -/
def start (op : Word) (vs : List (Nibble × Byte) := []) (i : Word := 0) (pc : Word := 0x200) (bytes : List (Nat × Byte) := [])
    (keys : Word := 0) (rand : Byte := 0) (quit : Bool := false) : State :=
  let s := vs.foldl (fun s p => s.setV p.1 p.2) { State.reset with i := i, pc := pc, inputs := [{ quit := quit, keys := keys, rand := rand }] }
  State.placeWord { s with mem := bytes.foldl (fun m p => m.write p.1 p.2) s.mem } op

/-- A machine whose next tick has no quit request and no key held. -/
def quiet (s : State) : State := { s with inputs := [{ quit := false, keys := 0, rand := 0 }] }

/-- The state after one tick. -/
def after (s : State) : Option State :=
  match step s with
  | .next t => some t
  | .fault _ => none
  | .refused _ => none

/-- What a tick leaves in one place of the state. -/
def seen {α : Type} (f : State → α) (s : State) : Option α := (after s).map f

/-- A buffer with the listed (column, row) pixels set. -/
def pixels (ps : List (Fin 64 × Fin 32)) : FrameBuffer := ps.foldl (fun fb p => FrameBuffer.flip fb p.2 p.1) blankFrame

/-! ## WellFormed refuses an ill-formed term for each check (30_encoding R64; 40_cycle R92 to R95) -/

theorem test_wf_unrec0 : (Instr.unrec0 0x0E0).wellFormed = false ∧ (Instr.unrec0 0x3EE).wellFormed = false ∧
    (Instr.unrec0 0x0E1).wellFormed = true := by decide
theorem test_wf_unrec8 : (Instr.unrec8 0xAB4).wellFormed = false ∧ (Instr.unrec8 0xABE).wellFormed = false ∧
    (Instr.unrec8 0xAB8).wellFormed = true := by decide
theorem test_wf_unrecE : (Instr.unrecE 0x19E).wellFormed = false ∧ (Instr.unrecE 0x2A1).wellFormed = false ∧
    (Instr.unrecE 0x2AE).wellFormed = true := by decide
theorem test_wf_unrecF : (Instr.unrecF 0x155).wellFormed = false ∧ (Instr.unrecF 0x00A).wellFormed = false ∧
    (Instr.unrecF 0x085).wellFormed = true := by decide

/-! ## Decode: words written out bit by bit (opcode_table.json) -/

theorem test_decode_flow :
    decodeWord 0b0000000011101110 = .ok .ret ∧ decodeWord 0b0001101010111100 = .ok (.jp 0xABC) ∧
    decodeWord 0b0010001100000000 = .ok (.call 0x300) ∧ decodeWord 0b1011111111111111 = .ok (.jpV0 0xFFF) := by decide
theorem test_decode_skip :
    decodeWord 0b0011001101000010 = .ok (.seImm 3 0x42) ∧ decodeWord 0b0100001101000010 = .ok (.sneImm 3 0x42) ∧
    decodeWord 0b0101000100100000 = .ok (.seReg 1 2) ∧ decodeWord 0b1001000100100000 = .ok (.sneReg 1 2) := by decide
theorem test_decode_load :
    decodeWord 0b0110111101111011 = .ok (.ldImm 0xF 0x7B) ∧ decodeWord 0b0111001100000010 = .ok (.addImm 3 2) ∧
    decodeWord 0b1100001100001111 = .ok (.rnd 3 0x0F) := by decide
theorem test_decode_class8 :
    decodeWord 0b1000110011110000 = .ok (.mov 0xC 0xF) ∧ decodeWord 0b1000000100100001 = .ok (.orReg 1 2) ∧
    decodeWord 0b1000000100100010 = .ok (.andReg 1 2) ∧ decodeWord 0b1000000100100011 = .ok (.xorReg 1 2) ∧
    decodeWord 0b1000000100100100 = .ok (.addReg 1 2) ∧ decodeWord 0b1000000100100101 = .ok (.sub 1 2) := by decide
theorem test_decode_class8_more :
    decodeWord 0b1000000100100110 = .ok (.shr 1) ∧ decodeWord 0b1000000100100111 = .ok (.subn 1 2) ∧
    decodeWord 0b1000000100101110 = .ok (.shl 1) ∧ decodeWord 0b1000101010111000 = .ok (.unrec8 0xAB8) := by decide
theorem test_decode_display :
    decodeWord 0b0000000011100000 = .ok .cls ∧ decodeWord 0b1101101010110010 = .ok (.drw 0xA 0xB 2) := by decide
theorem test_decode_index :
    decodeWord 0b1010001100000000 = .ok (.ldI 0x300) ∧ decodeWord 0b1111000100011110 = .ok (.addI 1) ∧
    decodeWord 0b1111000000101001 = .ok (.ldF 0) ∧ decodeWord 0b1111000000110011 = .ok (.bcd 0) ∧
    decodeWord 0b1111001101010101 = .ok (.stm 3) ∧ decodeWord 0b1111001001100101 = .ok (.ldm 2) := by decide
theorem test_decode_keys_timers :
    decodeWord 0b1110001010011110 = .ok (.skp 2) ∧ decodeWord 0b1110001010100001 = .ok (.sknp 2) ∧
    decodeWord 0b1111000100000111 = .ok (.ldVxDt 1) ∧ decodeWord 0b1111001000001010 = .ok (.waitkey 2) ∧
    decodeWord 0b1111000000010101 = .ok (.ldDtVx 0) ∧ decodeWord 0b1111001000011000 = .ok (.ldStVx 2) := by decide
theorem test_decode_fallback :
    decodeWord 0b0000000100100011 = .ok (.unrec0 0x123) ∧ decodeWord 0b1110001010101110 = .ok (.unrecE 0x2AE) ∧
    decodeWord 0b1111000010000101 = .ok (.unrecF 0x085) := by decide
/-- The ignored bits of R67: T-FLOW-10, T-DISP-3, T-SKIP-8, T-SKIP-12. -/
theorem test_decode_ignored_bits :
    decodeWord 0x03EE = .ok .ret ∧ decodeWord 0x07E0 = .ok .cls ∧ decodeWord 0x5127 = .ok (.seReg 1 2) ∧
    decodeWord 0x912F = .ok (.sneReg 1 2) := by decide
/-- R47: the byte at the lower address is the high byte. A single byte is no instruction. -/
theorem test_decode_bytes :
    decode [0x12, 0x34, 0x56] = .ok (.jp 0x234, [0x56]) ∧ decode [0x12] = .error .tooShort := by decide
theorem test_encode :
    encode (.drw 0xA 0xB 2) = 0xDAB2 ∧ encode (.shr 1) = 0x8106 ∧ encode (.unrecF 0x085) = 0xF085 ∧
    bytesOfWord (encode (.jp 0x234)) = [0x12, 0x34] := by decide
/-- Lines of the programs P2, P3, P4 and P5 of 95_test_vectors (R69). -/
theorem test_assembly :
    assembly (.call 0x210) = "CALL 0x210" ∧ assembly (.addImm 1 0xFF) = "ADD V1, 0xFF" ∧ assembly (.stm 3) = "LD [I], V3" ∧
    assembly (.drw 0xA 0xB 2) = "DRW VA, VB, 2" ∧ assembly (.waitkey 2) = "LD V2, K" ∧ assembly (.unrec0 0) = "DW 0x0000" := by decide
/-- The words the host asks about: a row's own pattern. -/
theorem test_table_word :
    decodeTableWord 16 0xE09E = some (.skp 0) ∧ decodeTableWord 16 0x8000 = some (.mov 0 0) ∧
    decodeTableWord 16 0xF000 = some (.unrecF 0) := by decide

/-! ## Reset, load and fetch (95_test_vectors 2.1) -/

/-- T-RESET-1. -/
theorem test_boot_memory :
    let m := (State.boot Config.font [0x12, 0x34]).mem
    (m.read 0, m.read 0x4F, m.read 0x50, m.read 0x1FF, m.read 0x200, m.read 0x201, m.read 0x202) =
      ((0xF0, 0x80, 0, 0, 0x12, 0x34, 0) : Byte × Byte × Byte × Byte × Byte × Byte × Byte) := by decide
/-- T-RESET-2. -/
theorem test_boot_first_tick : seen (·.pc) (quiet (State.boot Config.font [0x12, 0x34])) = some 0x0234 := by decide
/-- T-LOAD-2 at the top of memory: the byte past 0xFFF is dropped. -/
theorem test_load_truncates :
    Memory.writeAll [] 0xFFF [0xAB, 0xCD] = [(0xFFF, 0xAB)] := by decide
/-- T-LOAD-3, T-UNREC-1: the first tick from reset. -/
theorem test_reset_first_tick :
    seen (fun t => (t.pc, t.events)) (quiet State.reset) = some (0x202, [.diag 0x0000 0x200]) := by decide
/-- T-FETCH-1. -/
theorem test_fetch_last : seen (fun t => (t.getV 0xA, t.pc)) (start 0x6A55 (pc := 0xFFE)) = some (0x55, 0x1000) := by decide
/-- T-FETCH-2, T-FETCH-6: the timer does not count in a faulting tick. -/
theorem test_fetch_fault :
    seen (fun t => (t.status, t.dt)) (quiet { State.reset with pc := 0xFFF, dt := 5 }) = some (.faulted (.fetchRange 0xFFF), 5) := by decide
/-- T-FETCH-5. -/
theorem test_fetch_odd : seen (fun t => (t.getV 0xA, t.pc)) (start 0x6A55 (pc := 0x201)) = some (0x55, 0x203) := by decide
/-- The instruction the host places is the one the next step runs (6A55 at 0x200), whatever the free inputs are. -/
theorem test_with_fetch_word : seen (fun t => (t.getV 0xA, t.pc)) (State.reset.withFetchWord 16 0x6A55) = some (0x55, 0x202) := by decide

/-! ## Control transfer (2.2) -/

/-- T-FLOW-1. -/
theorem test_jp : seen (·.pc) (start 0x1ABC) = some 0x0ABC := by decide
/-- T-FLOW-4. -/
theorem test_call : seen (fun t => (t.pc, t.sp, t.stack[0])) (start 0x2300 (pc := 0x204)) = some (0x300, 1, 0x204) := by decide
/-- T-FLOW-6: the 17th call overwrites slot 0. -/
theorem test_call_full :
    seen (fun t => (t.pc, t.sp, t.stack[0], t.stack[1])) { start 0x2300 (pc := 0x204) with sp := 16, stack := (Vector.replicate 16 0x222) } =
      some (0x300, 1, 0x204, 0x222) := by decide
/-- T-FLOW-8: a pop from a full stack. -/
theorem test_ret :
    seen (fun t => (t.pc, t.sp)) { start 0x00EE (pc := 0x212) with sp := 16, stack := (Vector.replicate 16 0).set 15 0xABC } =
      some (0xABE, 15) := by decide
/-- T-FLOW-9. -/
theorem test_ret_empty :
    seen (fun t => (t.status, t.pc)) (start 0x00EE (pc := 0x212)) = some (.faulted (.stackUnderflow 0x212), 0x212) := by decide
/-- T-FLOW-12, T-FLOW-13: the sum is not reduced to 12 bits, and the register is V0 whatever the top digit. -/
theorem test_jp_v0 : seen (·.pc) (start 0xBFFF [(0, 0xFF)]) = some 0x10FE := by decide
theorem test_jp_v0_not_vx : seen (·.pc) (start 0xB300 [(0, 4), (3, 0x77)]) = some 0x304 := by decide

/-! ## Skips (2.3) -/

/-- T-SKIP-1, T-SKIP-2. -/
theorem test_se_imm : seen (·.pc) (start 0x3342 [(3, 0x42)]) = some 0x204 ∧ seen (·.pc) (start 0x3342 [(3, 0x41)]) = some 0x202 := by decide
/-- T-SKIP-3, T-SKIP-4. -/
theorem test_sne_imm : seen (·.pc) (start 0x4342 [(3, 0x42)]) = some 0x202 ∧ seen (·.pc) (start 0x4342 [(3, 0x41)]) = some 0x204 := by decide
/-- T-SKIP-5, T-SKIP-6. -/
theorem test_se_reg : seen (·.pc) (start 0x5120 [(1, 7), (2, 7)]) = some 0x204 ∧ seen (·.pc) (start 0x5120 [(1, 7), (2, 8)]) = some 0x202 := by decide
/-- T-SKIP-9, T-SKIP-10. -/
theorem test_sne_reg : seen (·.pc) (start 0x9120 [(1, 7), (2, 8)]) = some 0x204 ∧ seen (·.pc) (start 0x9120 [(1, 7), (2, 7)]) = some 0x202 := by decide
/-- T-SKIP-13. -/
theorem test_skip_past_the_end : seen (·.pc) (start 0x3000 (pc := 0xFFC)) = some 0x1000 := by decide

/-! ## Load, arithmetic, logic, shifts, random (2.4): V1, VF and pc after the tick -/

/-- What the vectors of this family look at. -/
def alu (t : State) : Byte × Byte × Word := (t.getV 1, t.getV 15, t.pc)

/-- T-ALU-1. -/
theorem test_ld_imm : seen alu (start 0x6F7B) = some (0, 0x7B, 0x202) := by decide
/-- T-ALU-2 (S1), T-ALU-3. -/
theorem test_add_imm_wraps : seen (fun t => (t.getV 3, t.getV 15)) (start 0x7302 [(3, 0xFF)]) = some (1, 0) := by decide
theorem test_add_imm_vf : seen alu (start 0x7F02 [(15, 0xFF)]) = some (0, 1, 0x202) := by decide
/-- T-ALU-42. -/
theorem test_mov : seen (·.getV 0xC) (start 0x8CF0 [(15, 1)]) = some 1 := by decide
/-- T-ALU-38 to T-ALU-40. -/
theorem test_or : seen alu (start 0x8121 [(1, 0x0F), (2, 0xF0), (15, 7)]) = some (0xFF, 7, 0x202) := by decide
theorem test_and : seen alu (start 0x8122 [(1, 0x3C), (2, 0x0F), (15, 7)]) = some (0x0C, 7, 0x202) := by decide
theorem test_xor : seen alu (start 0x8123 [(1, 0xFF), (2, 0x0F), (15, 7)]) = some (0xF0, 7, 0x202) := by decide
/-- T-ALU-5, T-ALU-9. -/
theorem test_add_reg_same : seen alu (start 0x8114 [(1, 0x80)]) = some (0, 0, 0x202) := by decide
theorem test_add_reg_vf : seen alu (start 0x8F24 [(15, 0xF0), (2, 0x20)]) = some (0, 1, 0x202) := by decide
/-- T-ALU-14, T-ALU-17. -/
theorem test_sub_equal : seen alu (start 0x8125 [(1, 7), (2, 7), (15, 1)]) = some (0, 0, 0x202) := by decide
theorem test_sub_vf : seen alu (start 0x8F25 [(15, 9), (2, 3)]) = some (0, 0xFE, 0x202) := by decide
/-- T-ALU-23, T-ALU-27. -/
theorem test_subn_wraps : seen alu (start 0x8127 [(1, 5), (2, 3)]) = some (0xFE, 0, 0x202) := by decide
theorem test_subn_by_vf : seen alu (start 0x81F7 [(1, 2), (15, 9)]) = some (0xFF, 1, 0x202) := by decide
/-- T-ALU-29, T-ALU-32. -/
theorem test_shr : seen alu (start 0x8126 [(1, 3), (2, 0xAA)]) = some (1, 1, 0x202) := by decide
theorem test_shr_vf : seen alu (start 0x8F26 [(15, 3)]) = some (0, 0, 0x202) := by decide
/-- T-ALU-34, T-ALU-36. -/
theorem test_shl : seen alu (start 0x812E [(1, 0x81), (2, 0xAA)]) = some (2, 1, 0x202) := by decide
theorem test_shl_vf : seen alu (start 0x8FFE [(15, 0x80)]) = some (0, 2, 0x202) := by decide
/-- T-ALU-44, T-ALU-45. -/
theorem test_rnd : seen (·.getV 3) (start 0xC30F (rand := 0xA7)) = some 7 := by decide
theorem test_rnd_zero_mask : seen (·.getV 3) (start 0xC300 [(3, 0x55)] (rand := 0xFF)) = some 0 := by decide

/-! ## Index and memory (2.5) -/

/-- The three bytes from an address on. -/
def bytesAt (a : Nat) (t : State) : List Byte := (List.range 3).map fun k => t.mem.read (a + k)

/-- T-MEM-2. -/
theorem test_ld_i : seen (fun t => (t.i, t.pc)) (start 0xAFFF) = some (0xFFF, 0x202) := by decide
/-- T-MEM-4, T-MEM-5. -/
theorem test_add_i : seen (fun t => (t.i, t.getV 15)) (start 0xF11E [(1, 1)] (i := 0xFFF)) = some (0x1000, 0) := by decide
theorem test_add_i_wraps : seen (·.i) (start 0xF11E [(1, 2)] (i := 0xFFFF)) = some 1 := by decide
/-- T-MEM-7. -/
theorem test_ld_f : seen (·.i) (start 0xF029 [(0, 0xFF)]) = some 0x4FB := by decide
/-- T-MEM-9 (S12), T-MEM-15. -/
theorem test_bcd : seen (bytesAt 0x300) (start 0xF033 [(0, 156)] (i := 0x300)) = some [1, 5, 1] := by decide
theorem test_bcd_fault :
    seen (fun t => (t.status, t.pc, t.mem.read 0xFFE)) (start 0xF033 [(0, 0x7B)] (i := 0xFFE)) =
      some (.faulted (.memRange 0x1000), 0x200, 0) := by decide
/-- T-MEM-17 (three of its bytes), T-MEM-20. -/
theorem test_stm :
    seen (fun t => (bytesAt 0x304 t, t.i, t.mem.read 0x307)) (start 0xF355 [(0, 1), (1, 5), (2, 1), (3, 7), (4, 0x99)] (i := 0x303)) =
      some ([5, 1, 7], 0x307, 0) := by decide
theorem test_stm_fault :
    seen (fun t => (t.status, t.i, t.mem.read 0xFF1)) (start 0xFF55 [(0, 1)] (i := 0xFF1)) =
      some (.faulted (.memRange 0x1000), 0xFF1, 0) := by decide
/-- T-MEM-22, T-MEM-24. -/
theorem test_ldm :
    seen (fun t => (t.getV 0, t.getV 1, t.getV 2, t.getV 3, t.i))
      (start 0xF265 [(3, 0x77)] (i := 0x300) (bytes := [(0x300, 1), (0x301, 5), (0x302, 1), (0x303, 9)])) =
      some (1, 5, 1, 0x77, 0x303) := by decide
theorem test_ldm_last : seen (fun t => (t.getV 0, t.i)) (start 0xF065 (i := 0xFFF) (bytes := [(0xFFF, 0x5A)])) = some (0x5A, 0x1000) := by decide

/-! ## Display (2.6) -/

/-- T-DISP-1. -/
theorem test_cls :
    seen (fun t => (t.fb, t.getV 15, t.dirty, t.events)) { start 0x00E0 [(15, 1)] with fb := pixels [(0, 0), (63, 31), (5, 7)] } =
      some (blankFrame, 1, false, [.present blankFrame]) := by decide
/-- T-DISP-5. -/
theorem test_drw_collision :
    seen (fun t => (t.fb, t.getV 15)) { start 0xD121 [(1, 2), (2, 3)] (i := 0x300) (bytes := [(0x300, 0xC0)]) with fb := pixels [(2, 3)] } =
      some (pixels [(3, 3)], 1) := by decide
/-- T-DISP-9 (S9): both wraps. -/
theorem test_drw_wraps :
    seen (fun t => (t.fb, t.getV 15)) (start 0xDAB2 [(0xA, 60), (0xB, 31)] (i := 0x20E) (bytes := [(0x20E, 0xFF), (0x20F, 0x81)])) =
      some (pixels [(60, 31), (61, 31), (62, 31), (63, 31), (0, 31), (1, 31), (2, 31), (3, 31), (60, 0), (3, 0)], 0) := by decide

/-! ## Keys and timers (2.7, 2.8) -/

/-- T-KEY-1, T-KEY-5. -/
theorem test_skp : seen (·.pc) (start 0xE29E [(2, 3)] (pc := 0x20A) (keys := 0x0008)) = some 0x20E := by decide
theorem test_skp_fault : seen (·.status) (start 0xE29E [(2, 16)] (keys := 0xFFFF)) = some (.faulted (.keyRange 16)) := by decide
/-- T-KEY-3, T-KEY-4. -/
theorem test_sknp :
    seen (·.pc) (start 0xE2A1 [(2, 3)] (keys := 0x0008)) = some 0x202 ∧ seen (·.pc) (start 0xE2A1 [(2, 3)]) = some 0x204 := by decide
/-- T-KEY-11, T-KEY-12. -/
theorem test_waitkey_none :
    seen (fun t => (t.pc, t.getV 2, t.dt)) { start 0xF20A [(2, 0x55)] (pc := 0x206) with dt := 4 } = some (0x206, 0x55, 3) := by decide
theorem test_waitkey_lowest :
    seen (fun t => (t.pc, t.getV 2)) (start 0xF20A [(2, 0x55)] (pc := 0x206) (keys := 0x0088)) = some (0x208, 3) := by decide
/-- T-TMR-2. -/
theorem test_ld_vx_dt : seen (fun t => (t.getV 1, t.dt)) { start 0xF107 with dt := 2 } = some (2, 1) := by decide
/-- T-TMR-4, T-TMR-6. -/
theorem test_ld_dt_vx : seen (·.dt) (start 0xF015 [(0, 1)]) = some 0 ∧ seen (·.dt) (start 0xF015 [(0, 0xFF)]) = some 254 := by decide
/-- T-TMR-7. -/
theorem test_ld_st_vx : seen (·.st) (start 0xF218 [(2, 3)]) = some 2 := by decide

/-! ## Unrecognized words (2.9), quit (2.10) -/

/-- T-TMR-8: both timers count in an UNREC_0 tick. -/
theorem test_unrec0 :
    seen (fun t => (t.dt, t.st, t.events)) { start 0x0000 with dt := 5, st := 1 } = some (4, 0, [.diag 0x0000 0x200]) := by decide
/-- T-ALU-47. -/
theorem test_unrec8 : seen (fun t => (t.pc, t.events)) (start 0x8AB8 (pc := 0x300)) = some (0x302, [.diag 0x8AB8 0x300]) := by decide
/-- T-KEY-8: no register is read. -/
theorem test_unrecE :
    seen (fun t => (t.pc, t.status, t.events)) (start 0xE2FF [(2, 0xFF)]) = some (0x202, .running, [.diag 0xE2FF 0x200]) := by decide
/-- T-UNREC-8. -/
theorem test_unrecF : seen (fun t => (t.i, t.events)) (start 0xF01F [(0, 5)]) = some (0, [.diag 0xF01F 0x200]) := by decide
/-- T-QUIT-1, its tick 2: the CLS is not fetched and the timer does not count. -/
theorem test_quit :
    seen (fun t => (t.status, t.pc, t.dt, t.events)) { start 0x00E0 (quit := true) with dt := 8 } = some (.stopped, 0x200, 8, []) := by decide
/-- T-FAULT-1. -/
theorem test_faulted_stands :
    after { State.reset with status := .faulted (.stackUnderflow 0x212), dt := 3 } =
      some { State.reset with status := .faulted (.stackUnderflow 0x212), dt := 3 } := by decide

/-! ## Witnesses: the hypotheses of each statement can be met -/

/-- A machine that meets the invariant at its boundaries: a fault recorded at the highest `pc`, one live slot, one diagnostic. -/
def edge : State :=
  { State.reset with pc := 0x10FE, sp := 1, stack := Vector.replicate 16 0xFFE, status := .faulted (.fetchRange 0x10FE),
                     events := [.diag 0x8AB8 0xFFE], mem := [(0xFFF, 1)] }
theorem edge_inv : Inv edge where
  memory := by decide
  clean := rfl
  slots := by decide
  pcBound := by decide
  faultRecord := by intro f h; cases h; exact ⟨rfl, by decide⟩
  diagnostics := by
    intro op a h
    simp only [edge, List.mem_singleton, Event.diag.injEq] at h
    obtain ⟨rfl, rfl⟩ := h
    exact ⟨⟨.unrec8 0xAB8, by decide, by decide⟩, by decide⟩

/-- The same machine before it faulted. -/
def edgeRunning : State := quiet { edge with status := .running }
theorem edgeRunning_inv : Inv edgeRunning :=
  ⟨edge_inv.memory, rfl, edge_inv.slots, edge_inv.pcBound, (fun f h => by cases h), edge_inv.diagnostics⟩

theorem witness_BootLoadsFontAndProgram : Config.font.length = 80 ∧ (List.replicate 80 (1#8)).length = 80 := by decide
theorem witness_StepKeepsTheInvariant :
    (Inv edge ∧ ∃ t, step edge = .next t) ∧ Inv edgeRunning ∧ ∃ t, step edgeRunning = .next t :=
  ⟨⟨edge_inv, _, rfl⟩, edgeRunning_inv, _, rfl⟩

/-- One instruction for each fault and for each way round the table of R171. -/
theorem witness_FaultTableDecidesEveryInstruction :
    faultCondition (.bcd 0) { State.reset with i := 0xFFE } = some (.memRange 0x1000) ∧
    faultCondition (.bcd 0) { State.reset with i := 0xFFD } = none ∧
    faultCondition (.drw 0 0 0) { State.reset with i := 0x1234 } = none ∧
    faultCondition .ret State.reset = some (.stackUnderflow 0x200) ∧
    faultCondition .ret { State.reset with sp := 1 } = none ∧
    faultCondition (.skp 2) (State.reset.setV 2 16) = some (.keyRange 16) ∧
    faultCondition (.sknp 2) (State.reset.setV 2 15) = none := by decide
theorem witness_EachInstructionLeavesPcAsRuled :
    faultCondition (.jpV0 0xFFF) (State.reset.setV 0 0xFF) = none ∧ faultCondition .ret { State.reset with sp := 16 } = none ∧
    faultCondition (.ldm 15) { State.reset with i := 0xFF0 } = none := by decide
theorem witness_OnlyListedRegistersAreWritten :
    (∃ t, exec (.sub 1 15) State.reset = .next t) ∧ ∃ t, exec (.ldm 15) { State.reset with i := 0xFF1 } = .next t :=
  ⟨⟨_, rfl⟩, _, rfl⟩
theorem witness_OnlyNamedInstructionsWriteEachState :
    (∃ t, exec (.stm 3) State.reset = .next t) ∧ ∃ t, exec (.call 0xFFF) { State.reset with sp := 16 } = .next t :=
  ⟨⟨_, rfl⟩, _, rfl⟩
theorem witness_HiddenStateIsNeverRead :
    (∃ t, exec (.drw 1 2 15) State.reset = .next t) ∧ ∃ t, exec (.unrec0 0x123) State.reset = .next t := ⟨⟨_, rfl⟩, _, rfl⟩

theorem witness_DecodeOfEncodeIsTheInstruction :
    Instr.WellFormed (.drw 15 15 15) ∧ Instr.WellFormed (.unrecF 0xFFF) ∧ Instr.WellFormed (.unrec0 0x000) := by decide

theorem witness_FetchIsBigEndianAndBounded :
    0xFFE < ({ State.reset with pc := 0xFFF } : State).pc.toNat ∧ ({ State.reset with pc := 0xFFE } : State).pc.toNat ≤ 0xFFE := by decide
theorem witness_StepRunsTheDecodedInstruction :
    let s := start 0x6A55 (pc := 0xFFE)
    s.status = .running ∧ s.tickIn.quit = false ∧ s.pc.toNat ≤ 0xFFE ∧ Instr.WellFormed (.ldImm 0xA 0x55) ∧
      decode [s.mem.read s.pc.toNat, s.mem.read (s.pc.toNat + 1)] = .ok (.ldImm 0xA 0x55, []) := by decide
theorem witness_StoppedOrFaultedMachineStands :
    ({ State.reset with status := .stopped } : State).status ≠ .running ∧ edge.status ≠ .running := by decide
theorem witness_QuitTickOnlyStops :
    (start 0x00E0 (quit := true)).status = .running ∧ (start 0x00E0 (quit := true)).tickIn.quit = true := by decide
theorem witness_FetchFaultTickRecordsFetchRange :
    let s : State := quiet { State.reset with pc := 0xFFF }
    s.status = .running ∧ s.tickIn.quit = false ∧ 0xFFE < s.pc.toNat := by decide
theorem witness_EveryCompletedTickCountsBothTimers :
    let s : State := { start 0x00E0 with dt := 1, st := 0 }
    s.status = .running ∧ s.tickIn.quit = false ∧ s.pc.toNat ≤ 0xFFE ∧ Instr.WellFormed .cls ∧
      decode [s.mem.read s.pc.toNat, s.mem.read (s.pc.toNat + 1)] = .ok (.cls, []) ∧
      ∃ t, exec .cls { s with keys := keysOfWord s.tickIn.keys } = .next t ∧ t.status = .running :=
  ⟨rfl, rfl, by decide, rfl, by decide, _, rfl, rfl⟩
theorem witness_FaultedTickSkipsPresentAndTimers :
    let s : State := { start 0x00EE with dt := 5, st := 5 }
    s.status = .running ∧ s.tickIn.quit = false ∧ s.pc.toNat ≤ 0xFFE ∧ Instr.WellFormed .ret ∧
      decode [s.mem.read s.pc.toNat, s.mem.read (s.pc.toNat + 1)] = .ok (.ret, []) ∧
      faultCondition .ret { s with keys := keysOfWord s.tickIn.keys } = some (.stackUnderflow 0x200) := by decide
theorem witness_ExactlyClsAndDrwMakeTheBufferDirty :
    State.reset.dirty = false ∧ faultCondition .cls State.reset = none ∧
      faultCondition (.drw 0 0 15) { State.reset with i := 0xFF1 } = none ∧ faultCondition (.ldImm 0 0) State.reset = none := by decide

/-- Words of the rows whose decoding a statement names, with every ignored bit set where a row has some. -/
theorem witness_RowDecodes :
    0x1FFF#16 &&& 0xF000#16 = 0x1000#16 ∧ 0xBFFF#16 &&& 0xF000#16 = 0xB000#16 ∧ 0x3FFF#16 &&& 0xF000#16 = 0x3000#16 ∧
    0x4FFF#16 &&& 0xF000#16 = 0x4000#16 ∧ 0x5FFF#16 &&& 0xF000#16 = 0x5000#16 ∧ 0x9FFF#16 &&& 0xF000#16 = 0x9000#16 ∧
    0x6FFF#16 &&& 0xF000#16 = 0x6000#16 ∧ 0x8FF0#16 &&& 0xF00F#16 = 0x8000#16 ∧ 0x8FF1#16 &&& 0xF00F#16 = 0x8001#16 ∧
    0x8FF2#16 &&& 0xF00F#16 = 0x8002#16 ∧ 0x8FF3#16 &&& 0xF00F#16 = 0x8003#16 ∧ 0xAFFF#16 &&& 0xF000#16 = 0xA000#16 := by decide
theorem witness_RowDecodes_more :
    0xFF29#16 &&& 0xF0FF#16 = 0xF029#16 ∧ 0xFF55#16 &&& 0xF0FF#16 = 0xF055#16 ∧ 0xFF65#16 &&& 0xF0FF#16 = 0xF065#16 ∧
    0x0FE0#16 &&& 0xF0FF#16 = 0x00E0#16 ∧ 0xDFFF#16 &&& 0xF000#16 = 0xD000#16 ∧ 0xFF07#16 &&& 0xF0FF#16 = 0xF007#16 ∧
    0xFF0A#16 &&& 0xF0FF#16 = 0xF00A#16 ∧ 0xFF15#16 &&& 0xF0FF#16 = 0xF015#16 ∧ 0xFF18#16 &&& 0xF0FF#16 = 0xF018#16 := by decide

/-- The first and the last slot. -/
theorem witness_RetPopsTheNewestSlot :
    ({ State.reset with sp := 1 } : State).sp.val = (0 : Fin 16).val + 1 ∧
    ({ State.reset with sp := 16 } : State).sp.val = (15 : Fin 16).val + 1 := by decide
theorem witness_CallThenRetContinuesAfterTheCall :
    (∃ t, exec (.call 0x300) State.reset = .next t) ∧ State.reset.sp.val < 16 ∧
      ∃ t, exec (.call 0x300) { State.reset with sp := 16 } = .next t := ⟨⟨_, rfl⟩, by decide, _, rfl⟩
/-- The clauses for `x ≠ F` and `x = F`, and the two values of the carry. -/
theorem witness_AddRegWrapsAndSetsCarry :
    (14#4 ≠ 15#4) ∧ 256 ≤ ((State.reset.setV 14 0xFF).getV 14).toNat + ((State.reset.setV 15 0x01).getV 15).toNat ∧
    ¬ 256 ≤ ((State.reset.setV 14 0xFE).getV 14).toNat + ((State.reset.setV 15 0x01).getV 15).toNat := by decide
/-- Both values of `f`, at equal operands and at operands one apart. -/
theorem witness_SubSetsStrictNoBorrow :
    (0 = if ((State.reset.setV 1 7).getV 2).toNat < ((State.reset.setV 2 0).getV 1).toNat then 1 else 0) ∧
    (1 = if ((State.reset.setV 1 1).getV 2).toNat < ((State.reset.setV 1 1).getV 1).toNat then 1 else 0) ∧
    (14#4 ≠ 15#4) := by decide
theorem witness_SubnSetsStrictNoBorrow :
    (0 = if (State.reset.getV 1).toNat < (State.reset.getV 2).toNat then 1 else 0) ∧
    (1 = if ((State.reset.setV 2 1).getV 1).toNat < ((State.reset.setV 2 1).getV 2).toNat then 1 else 0) ∧
    (14#4 ≠ 15#4) := by decide
theorem witness_ShrHalvesAndSetsBitZero : (14#4 ≠ 15#4) ∧ (15#4 = 15#4) := by decide
theorem witness_ShlDoublesAndSetsBitSeven : (0#4 ≠ 15#4) ∧ (15#4 = 15#4) := by decide
theorem witness_LogicIsBitwiseAndSetsNoFlag : 0x8FF1#16 &&& 0xF00F#16 = 0x8001#16 ∧ 0 < 8 ∧ 7 < 8 := by decide
theorem witness_RndMasksAnyRandomByte : (start 0xC30F (rand := 0xA7)).tickIn.rand = 0xA7 ∧ 7 < 8 := by decide

/-- The last base that fits and the first that does not. -/
theorem witness_BcdStoresItsThreeDigits :
    ({ State.reset with i := 0xFFD } : State).i.toNat + 2 ≤ 0xFFF ∧ 0xFFF < ({ State.reset with i := 0xFFE } : State).i.toNat + 2 := by decide
theorem witness_StmStoresTheRegisters :
    ({ State.reset with i := 0xFF0 } : State).i.toNat + (15 : Nibble).toNat ≤ 0xFFF ∧
    0xFFF < ({ State.reset with i := 0xFF1 } : State).i.toNat + (15 : Nibble).toNat ∧ (0 : Nibble).toNat ≤ (0 : Nibble).toNat := by decide
theorem witness_LdmLoadsTheRegisters :
    ({ State.reset with i := 0xFFF } : State).i.toNat + (0 : Nibble).toNat ≤ 0xFFF ∧
    0xFFF < ({ State.reset with i := 0xFFF } : State).i.toNat + (1 : Nibble).toNat ∧ (15 : Nibble).toNat ≤ (15 : Nibble).toNat := by decide
theorem witness_StmThenLdmRestoresTheRegisters :
    ({ State.reset with i := 0xFF0 } : State).i.toNat + (15 : Nibble).toNat ≤ 0xFFF ∧
      ∃ t, exec (.stm 15) { State.reset with i := 0xFF0 } = .next t := ⟨by decide, _, rfl⟩

/-- The tallest sprite, one pixel it covers and one it does not, at a place where both directions wrap. -/
theorem witness_BlitInvertsExactlyTheCoveredPixels :
    (List.replicate 15 0x80#8).length ≤ 15 ∧ spriteCovers 63 31 (List.replicate 15 0x80) 0 63 ∧
      ¬ spriteCovers 63 31 [0x80] 0 63 := by
  refine ⟨by decide, ⟨1, 0, by decide, by decide, by decide, by decide, by decide⟩, ?_⟩
  rintro ⟨j, i, hj, hi, _, _, h⟩
  simp at hj
  subst hj
  exact absurd h (by decide)
theorem witness_BlitReportsExactlyTheCollisions :
    [0x80#8].length ≤ 15 ∧ spriteCollides 4 4 [0x80] (pixels [(4, 4)]) ∧ ¬ spriteCollides 4 4 [0x80] blankFrame := by
  refine ⟨by decide, ⟨4, 4, ⟨0, 0, by decide, by decide, by decide, by decide, by decide⟩, by decide⟩, ?_⟩
  rintro ⟨r, c, _, h⟩
  simp [FrameBuffer.pixel, blankFrame] at h
theorem witness_DrawingTwiceRestoresTheBuffer :
    (List.replicate 15 0xFF#8).length ≤ 15 ∧ blankFrame = blankFrame ∧ ∃ b ∈ List.replicate 15 0xFF#8, b ≠ 0#8 :=
  ⟨by decide, rfl, 0xFF, by decide, by decide⟩
/-- No rows out of range, the last row at 0xFFF, the last row at 0x1000. -/
theorem witness_DrwDrawsTheSprite :
    (0#4 = 0#4) ∧ ({ State.reset with i := 0xFF1 } : State).i.toNat + (15#4).toNat ≤ 0x1000 ∧
    15#4 ≠ 0#4 ∧ 0x1000 < ({ State.reset with i := 0xFF2 } : State).i.toNat + (15#4).toNat ∧
    [0xF0#8] = (List.range (1#4).toNat).map (fun j => State.reset.mem.read (State.reset.i.toNat + j)) := by decide

theorem witness_KeySkipsTestTheLevel :
    ((State.reset.setV 2 15).getV 2).toNat = (15 : Fin 16).val ∧ 15 < ((State.reset.setV 2 16).getV 2).toNat := by decide
theorem witness_WaitkeyTakesTheLeastHeldKey :
    let s : State := { State.reset with keys := keysOfWord 0x8000 }
    (s.keys[(15 : Fin 16)] = true ∧ ∀ j : Fin 16, j < 15 → s.keys[j] = false) ∧ ∀ k : Fin 16, State.reset.keys[k] = false := by decide
theorem witness_LdVxDtReadsTheTimer : State.reset.status = .running ∧ 0xFF07#16 &&& 0xF0FF#16 = 0xF007#16 := by decide
theorem witness_TimersAreSetAndCountInTheSameTick : State.reset.status = .running := by decide
/-- A word of each UNREC row beside a defined row, and each instruction with its class nibble. -/
theorem witness_UnrecognizedWordsOnlyReport :
    (fieldC 0x00E1 = 0x0#4 ∧ fieldNN 0x00E1 ≠ 0xE0#8 ∧ fieldNN 0x00E1 ≠ 0xEE#8) ∧
    (fieldC 0x8AB8 = 0x8#4 ∧ 8 ≤ (fieldN 0x8AB8).toNat ∧ fieldN 0x8AB8 ≠ 0xE#4) ∧
    (fieldC 0xE29F = 0xE#4 ∧ fieldNN 0xE29F ≠ 0x9E#8 ∧ fieldNN 0xE29F ≠ 0xA1#8) ∧
    (fieldC 0xF01F = 0xF#4 ∧ (fieldNN 0xF01F).toNat ∉ [0x07, 0x0A, 0x15, 0x18, 0x1E, 0x29, 0x33, 0x55, 0x65]) ∧
    (Instr.unrec0 0x0E1 = .unrec0 0x0E1 ∧ 0x0#4 = 0x0#4) := by decide

theorem witness_EveryTickHoldsTheKeysOfItsInput :
    (start 0x00EE (keys := 0xFFFF)).status = .running ∧
    (start 0x00EE (keys := 0xFFFF)).inputs = [{ quit := false, keys := 0xFFFF, rand := 0 }] ∧
    (start 0x00EE (keys := 0xFFFF) (quit := true)).inputs = [{ quit := true, keys := 0xFFFF, rand := 0 }] ∧
    State.reset.status = .running ∧ State.reset.inputs = [] := by decide

end Sys2Proof.Tests
end

section
/-! SUPPORT. Facts the skips share: the class of a word that matches a row by its top nibble, and what `skipIf` leaves and where it goes. -/

namespace Sys2Proof.Machine

/-- R64: a word that matches a row by its top nibble alone has that row's class. -/
theorem fieldC_of_and_F000 {op : Word} {c : Nibble} (h : op &&& 0xF000#16 = encNNN c 0#12) : fieldC op = c := by
  rw [← fieldC_and_F000, h, fieldC_encNNN]

/-- A skip writes `pc` alone (spec/42_skip.md). -/
theorem State.skipIf_onlyPc (s : State) (c : Bool) : OnlyPc s (s.skipIf c) := by
  simp [OnlyPc, OnlyRegs, KeepsV, KeepsIndex, KeepsStack, KeepsTimers, KeepsMemory, KeepsDisplay, KeepsRun, KeepsEvents]

/-- Where a skip goes, as a number: `pc` wraps modulo 65536 (D13). -/
theorem State.skipIf_pc_toNat (s : State) (c : Bool) :
    (s.skipIf c).pc.toNat = (s.pc.toNat + if c then 4 else 2) % 65536 := by
  cases c <;> simp

end Sys2Proof.Machine
end

section
/-! PROOFS. The skips against an immediate (R110, R111). -/

namespace Sys2Proof.Machine

theorem exec_seImm (x : Nibble) (nn : Byte) (s : State) :
    exec (.seImm x nn) s = .next (s.skipIf (s.getV x == nn)) := rfl

theorem exec_sneImm (x : Nibble) (nn : Byte) (s : State) :
    exec (.sneImm x nn) s = .next (s.skipIf (s.getV x != nn)) := rfl

theorem rowDecodes_seImm :
    RowDecodes 0xF000#16 0x3000#16 (fun op => .seImm (fieldX op) (fieldNN op)) := by
  intro op h
  have hc : fieldC op = 0x3#4 := fieldC_of_and_F000 h
  simp [decodeWord, hc]

theorem rowDecodes_sneImm :
    RowDecodes 0xF000#16 0x4000#16 (fun op => .sneImm (fieldX op) (fieldNN op)) := by
  intro op h
  have hc : fieldC op = 0x4#4 := fieldC_of_and_F000 h
  simp [decodeWord, hc]

/-- Settles O29: both instructions are one `skipIf`, on `Vx = nn` and on its negation. -/
theorem skipsOnAnImmediate : Obligations.SkipsOnAnImmediate := by
  refine ⟨rowDecodes_seImm, rowDecodes_sneImm, fun x nn s => ⟨?_, ?_⟩⟩
  · refine ⟨_, exec_seImm x nn s, s.skipIf_onlyPc _, ?_⟩
    simp only [State.skipIf_pc_toNat, beq_iff_eq]
  · refine ⟨_, exec_sneImm x nn s, s.skipIf_onlyPc _, ?_⟩
    simp only [State.skipIf_pc_toNat, bne_iff_ne, ne_eq, ite_not]

end Sys2Proof.Machine
end

section
/-! SUPPORT. Facts the register instructions share: the fields of a word that matches a row by its top and low nibbles, and what a write of
one register followed by the normal advance leaves. -/

namespace Sys2Proof.Machine

/-- R64: a word that matches a row by its top and low nibbles has that row's class and low nibble. -/
theorem fields_of_and_F00F {op : Word} {c n : Nibble} (h : op &&& 0xF00F#16 = encXYN c 0#4 0#4 n) :
    fieldC op = c ∧ fieldN op = n := by
  rw [← fieldC_and_F00F, ← fieldN_and_F00F, h, fieldC_encXYN, fieldN_encXYN]
  exact ⟨rfl, rfl⟩

/-- A register write and an advance leave everything but that register and `pc` as it was. -/
theorem State.setV_advance_onlyRegs (s : State) (x : Nibble) (b : Byte) (k : Word) :
    OnlyRegs (· = x) s ((s.setV x b).advance k) := by
  have hv : KeepsV (· = x) s ((s.setV x b).advance k) := fun r hr => s.getV_setV_of_ne b (Ne.symm hr)
  simp [OnlyRegs, hv, KeepsIndex, KeepsStack, KeepsTimers, KeepsMemory, KeepsDisplay, KeepsRun, KeepsEvents]

end Sys2Proof.Machine
end

section
/-! PROOFS. The loads and the addition of an immediate (R120, R121, R122). -/

namespace Sys2Proof.Machine

theorem exec_ldImm (x : Nibble) (nn : Byte) (s : State) :
    exec (.ldImm x nn) s = .next ((s.setV x nn).advance 2#16) := rfl

theorem exec_addImm (x : Nibble) (nn : Byte) (s : State) :
    exec (.addImm x nn) s = .next ((s.setV x (s.getV x + nn)).advance 2#16) := rfl

theorem exec_mov (x y : Nibble) (s : State) :
    exec (.mov x y) s = .next ((s.setV x (s.getV y)).advance 2#16) := rfl

theorem rowDecodes_ldImm :
    RowDecodes 0xF000#16 0x6000#16 (fun op => .ldImm (fieldX op) (fieldNN op)) := by
  intro op h
  have hc : fieldC op = 0x6#4 := fieldC_of_and_F000 h
  simp [decodeWord, hc]

theorem rowDecodes_addImm :
    RowDecodes 0xF000#16 0x7000#16 (fun op => .addImm (fieldX op) (fieldNN op)) := by
  intro op h
  have hc : fieldC op = 0x7#4 := fieldC_of_and_F000 h
  simp [decodeWord, hc]

theorem rowDecodes_mov :
    RowDecodes 0xF00F#16 0x8000#16 (fun op => .mov (fieldX op) (fieldY op)) := by
  intro op h
  obtain ⟨hc, hn⟩ : fieldC op = 0x8#4 ∧ fieldN op = 0x0#4 := fields_of_and_F00F h
  simp [decodeWord, decodeClass8, hc, hn]

/-- Settles O31: LD_IMM is one register write and the advance. -/
theorem ldImmLoadsTheImmediate : Obligations.LdImmLoadsTheImmediate := by
  refine ⟨rowDecodes_ldImm, fun x nn s => ?_⟩
  exact ⟨_, exec_ldImm x nn s, s.getV_setV_self x nn, rfl, s.setV_advance_onlyRegs x nn 2#16⟩

/-- Settles O32: the byte written is the sum of two bytes, which wraps; `Vx` is the only register written. -/
theorem addImmWrapsAndSetsNoFlag : Obligations.AddImmWrapsAndSetsNoFlag := by
  refine ⟨rowDecodes_addImm, fun x nn s => ⟨_, exec_addImm x nn s, ?_, rfl, s.setV_advance_onlyRegs x _ 2#16⟩⟩
  rw [State.getV_advance, State.getV_setV_self, BitVec.toNat_add]

/-- Settles O33: MOV is one register write, of `Vy` as it was, and the advance. -/
theorem movCopiesTheRegister : Obligations.MovCopiesTheRegister := by
  refine ⟨rowDecodes_mov, fun x y s => ?_⟩
  exact ⟨_, exec_mov x y s, s.getV_setV_self x _, rfl, s.setV_advance_onlyRegs x _ 2#16⟩

end Sys2Proof.Machine
end

section
/-! PROOFS. The bitwise operations (R123, R124, R125). -/

namespace Sys2Proof.Machine

theorem exec_orReg (x y : Nibble) (s : State) :
    exec (.orReg x y) s = .next ((s.setV x (s.getV x ||| s.getV y)).advance 2#16) := rfl

theorem exec_andReg (x y : Nibble) (s : State) :
    exec (.andReg x y) s = .next ((s.setV x (s.getV x &&& s.getV y)).advance 2#16) := rfl

theorem exec_xorReg (x y : Nibble) (s : State) :
    exec (.xorReg x y) s = .next ((s.setV x (s.getV x ^^^ s.getV y)).advance 2#16) := rfl

theorem rowDecodes_orReg :
    RowDecodes 0xF00F#16 0x8001#16 (fun op => .orReg (fieldX op) (fieldY op)) := by
  intro op h
  obtain ⟨hc, hn⟩ : fieldC op = 0x8#4 ∧ fieldN op = 0x1#4 := fields_of_and_F00F h
  simp [decodeWord, decodeClass8, hc, hn]

theorem rowDecodes_andReg :
    RowDecodes 0xF00F#16 0x8002#16 (fun op => .andReg (fieldX op) (fieldY op)) := by
  intro op h
  obtain ⟨hc, hn⟩ : fieldC op = 0x8#4 ∧ fieldN op = 0x2#4 := fields_of_and_F00F h
  simp [decodeWord, decodeClass8, hc, hn]

theorem rowDecodes_xorReg :
    RowDecodes 0xF00F#16 0x8003#16 (fun op => .xorReg (fieldX op) (fieldY op)) := by
  intro op h
  obtain ⟨hc, hn⟩ : fieldC op = 0x8#4 ∧ fieldN op = 0x3#4 := fields_of_and_F00F h
  simp [decodeWord, decodeClass8, hc, hn]

/-- Settles O34: each operation is one register write and the advance, and a bit of the byte written is the operation on the bits. -/
theorem logicIsBitwiseAndSetsNoFlag : Obligations.LogicIsBitwiseAndSetsNoFlag := by
  refine ⟨rowDecodes_orReg, rowDecodes_andReg, rowDecodes_xorReg, fun x y s => ⟨?_, ?_, ?_⟩⟩
  · refine ⟨_, exec_orReg x y s, rfl, s.setV_advance_onlyRegs x _ 2#16, fun k _ => ?_⟩
    rw [State.getV_advance, State.getV_setV_self, BitVec.getLsbD_or]
  · refine ⟨_, exec_andReg x y s, rfl, s.setV_advance_onlyRegs x _ 2#16, fun k _ => ?_⟩
    rw [State.getV_advance, State.getV_setV_self, BitVec.getLsbD_and]
  · refine ⟨_, exec_xorReg x y s, rfl, s.setV_advance_onlyRegs x _ 2#16, fun k _ => ?_⟩
    rw [State.getV_advance, State.getV_setV_self, BitVec.getLsbD_xor]

end Sys2Proof.Machine
end

section
/-! SUPPORT. Facts the index instructions share: the fields of a word that matches a row by its top nibble and low byte, the values written to
`I` as numbers, and what a write of `I` followed by the normal advance leaves. -/

namespace Sys2Proof.Machine

/-- R64: a word that matches a row by its top nibble and low byte has that row's class and low byte. -/
theorem fields_of_and_F0FF {op : Word} {c : Nibble} {nn : Byte} (h : op &&& 0xF0FF#16 = encXNN c 0#4 nn) :
    fieldC op = c ∧ fieldNN op = nn := by
  rw [← fieldC_and_F0FF, ← fieldNN_and_F0FF, h, fieldC_encXNN, fieldNN_encXNN]
  exact ⟨rfl, rfl⟩

theorem immNNN_toNat (nnn : Low12) : (immNNN nnn).toNat = nnn.toNat :=
  BitVec.toNat_setWidth_of_le (by decide)

theorem zext16_toNat (b : Byte) : (zext16 b).toNat = b.toNat :=
  BitVec.toNat_setWidth_of_le (by decide)

/-- R142: five times a byte is at most 1275, so the product does not wrap. -/
theorem fontAddr_toNat (b : Byte) : (fontAddr b).toNat = b.toNat * 5 := by
  have hb := b.isLt
  rw [fontAddr, BitVec.toNat_mul, zext16_toNat, BitVec.toNat_ofNat]
  omega

/-- Nothing changed but `pc` and `I`. -/
def OnlyIndex (s t : State) : Prop :=
  KeepsV NoReg s t ∧ KeepsStack s t ∧ KeepsTimers s t ∧ KeepsMemory NoByte s t ∧
    KeepsDisplay s t ∧ KeepsRun s t ∧ KeepsEvents s t

/-- A write of `I` and an advance leave everything but `I` and `pc` as it was. -/
theorem State.withI_advance_onlyIndex (s : State) (a k : Word) : OnlyIndex s ({ s with i := a }.advance k) := by
  have hv : KeepsV NoReg s ({ s with i := a }.advance k) := fun r _ => State.getV_congr rfl r
  simp [OnlyIndex, hv, KeepsStack, KeepsTimers, KeepsMemory, KeepsDisplay, KeepsRun, KeepsEvents]

end Sys2Proof.Machine
end

section
/-! PROOFS. The loads of the index register (R140, R142). -/

namespace Sys2Proof.Machine

theorem exec_ldI (nnn : Low12) (s : State) :
    exec (.ldI nnn) s = .next ({ s with i := immNNN nnn }.advance 2#16) := rfl

theorem exec_ldF (x : Nibble) (s : State) :
    exec (.ldF x) s = .next ({ s with i := fontAddr (s.getV x) }.advance 2#16) := rfl

theorem rowDecodes_ldI :
    RowDecodes 0xF000#16 0xA000#16 (fun op => .ldI (fieldNNN op)) := by
  intro op h
  have hc : fieldC op = 0xA#4 := fieldC_of_and_F000 h
  simp [decodeWord, hc]

theorem rowDecodes_ldF :
    RowDecodes 0xF0FF#16 0xF029#16 (fun op => .ldF (fieldX op)) := by
  intro op h
  obtain ⟨hc, hnn⟩ : fieldC op = 0xF#4 ∧ fieldNN op = 0x29#8 := fields_of_and_F0FF h
  simp [decodeWord, decodeClassF, hc, hnn]

/-- Settles O41: LD_I is one write of `I`, of `nnn` zero-extended, and the advance. -/
theorem ldILoadsTheAddress : Obligations.LdILoadsTheAddress := by
  refine ⟨rowDecodes_ldI, fun nnn s => ?_⟩
  exact ⟨_, exec_ldI nnn s, immNNN_toNat nnn, rfl, s.withI_advance_onlyIndex _ 2#16⟩

/-- Settles O43: LD_F is one write of `I`, of a product that does not wrap, and the advance. -/
theorem ldFPointsAtTheSprite : Obligations.LdFPointsAtTheSprite := by
  refine ⟨rowDecodes_ldF, fun x s => ?_⟩
  exact ⟨_, exec_ldF x s, fontAddr_toNat (s.getV x), rfl, s.withI_advance_onlyIndex _ 2#16⟩

end Sys2Proof.Machine
end

section
/-! PROOFS. Decode after encode (R61, R64): every well-formed instruction decodes from its own word and from its two bytes. -/

namespace Sys2Proof

/-! ## Each class decodes its own words -/

/-- Class 0x0: low bits no defined row has decode to the fallback (R92). -/
theorem decodeWord_encode_unrec0 {low : Low12} (h : unrec0Ok low) :
    decodeWord (encNNN 0x0#4 low) = .ok (.unrec0 low) := by
  simp only [unrec0Ok, Config.decodeKey0, Bool.and_eq_true, bne_iff_ne] at h
  simp [decodeWord, decodeClass0, Config.decodeKey0, h]

/-- Class 0xE: low bits no defined row has decode to the fallback (R94). -/
theorem decodeWord_encode_unrecE {low : Low12} (h : unrecEOk low) :
    decodeWord (encNNN 0xE#4 low) = .ok (.unrecE low) := by
  simp only [unrecEOk, Config.decodeKeyE, Bool.and_eq_true, bne_iff_ne] at h
  simp [decodeWord, decodeClassE, Config.decodeKeyE, h]

/-- A low nibble outside the defined rows of class 0x8 falls through to the last row (R93). -/
theorem decodeClass8_of_not_mem {op : Word}
    (h : fieldN op ∉ ([0x0, 0x1, 0x2, 0x3, 0x4, 0x5, 0x6, 0x7, 0xE] : List Nibble)) :
    decodeClass8 op = .unrec8 (fieldNNN op) := by
  simp only [List.mem_cons, List.not_mem_nil, or_false, not_or, ← BitVec.toNat_inj] at h
  unfold decodeClass8
  split <;> simp_all

/-- A low byte outside the defined rows of class 0xF falls through to the last row (R95). -/
theorem decodeClassF_of_not_mem {op : Word}
    (h : fieldNN op ∉ ([0x07, 0x0A, 0x15, 0x18, 0x1E, 0x29, 0x33, 0x55, 0x65] : List Byte)) :
    decodeClassF op = .unrecF (fieldNNN op) := by
  simp only [List.mem_cons, List.not_mem_nil, or_false, not_or, ← BitVec.toNat_inj] at h
  unfold decodeClassF
  split <;> simp_all

theorem decodeWord_encode_unrec8 {low : Low12} (h : unrec8Ok low) :
    decodeWord (encNNN 0x8#4 low) = .ok (.unrec8 low) := by
  have hn : fieldN (encNNN 0x8#4 low) ∉ ([0x0, 0x1, 0x2, 0x3, 0x4, 0x5, 0x6, 0x7, 0xE] : List Nibble) := by
    simpa [unrec8Ok] using h
  simp [decodeWord, decodeClass8_of_not_mem hn]

theorem decodeWord_encode_unrecF {low : Low12} (h : unrecFOk low) :
    decodeWord (encNNN 0xF#4 low) = .ok (.unrecF low) := by
  have hn : fieldNN (encNNN 0xF#4 low) ∉ ([0x07, 0x0A, 0x15, 0x18, 0x1E, 0x29, 0x33, 0x55, 0x65] : List Byte) := by
    simpa [unrecFOk] using h
  simp [decodeWord, decodeClassF_of_not_mem hn]

/-- Every well-formed instruction decodes from its own word. An instruction of a defined row puts in its word the fields the decoder
reads; one of an UNREC row has low bits no defined row of its class has. -/
theorem decodeWord_encode {i : Instr} (h : i.WellFormed) : decodeWord (encode i) = .ok i := by
  cases i with
  | unrec0 low => exact decodeWord_encode_unrec0 h
  | unrec8 low => exact decodeWord_encode_unrec8 h
  | unrecE low => exact decodeWord_encode_unrecE h
  | unrecF low => exact decodeWord_encode_unrecF h
  | cls | ret => decide
  | jp | call | jpV0 | ldI | seImm | sneImm | ldImm | addImm | rnd | drw => simp [encode, decodeWord]
  | seReg | sneReg => simp [encode, decodeWord, decodeClass59, Config.decode59Low]
  | mov | orReg | andReg | xorReg | addReg | sub | shr | subn | shl => simp [encode, decodeWord, decodeClass8]
  | skp | sknp => simp [encode, decodeWord, decodeClassE, Config.decodeKeyE]
  | ldVxDt | waitkey | ldDtVx | ldStVx | addI | ldF | bcd | stm | ldm => simp [encode, decodeWord, decodeClassF]

/-- Settles O12: the word by `decodeWord_encode`, and decoding the two bytes of a word is decoding the word. -/
theorem decodeOfEncodeIsTheInstruction : Obligations.DecodeOfEncodeIsTheInstruction := by
  intro i h
  refine ⟨decodeWord_encode h, fun rest => ?_⟩
  rw [decode_bytesOfWord, decodeWord_encode h]

/-- Settles O15: eight closed evaluations of the decoder. -/
theorem writtenOutWordsDecode : Obligations.WrittenOutWordsDecode := by
  unfold Obligations.WrittenOutWordsDecode
  decide

end Sys2Proof
end

section
/-! PROOFS. Encode after decode (R61, R64, R67): what a word decodes to is well-formed, and is encoded to the word with the bits its row
ignores cleared. -/

namespace Sys2Proof

open Machine

/-! ## A word with its ignored bits cleared (R67) -/

theorem encXYN_and_FFF0 (c x y n : Nibble) : encXYN c x y n &&& 0xFFF0#16 = encXYN c x y 0#4 := by
  apply BitVec.eq_of_getLsbD_eq
  intro k hk
  simp only [encXYN, BitVec.getLsbD_and, BitVec.getLsbD_append]
  interval_cases k <;> simp

theorem encXYN_and_FF0F (c x y n : Nibble) : encXYN c x y n &&& 0xFF0F#16 = encXYN c x 0#4 n := by
  apply BitVec.eq_of_getLsbD_eq
  intro k hk
  simp only [encXYN, BitVec.getLsbD_and, BitVec.getLsbD_append]
  interval_cases k <;> simp

theorem and_FFFF (op : Word) : op &&& 0xFFFF#16 = op := BitVec.and_allOnes

theorem and_F0FF (op : Word) : op &&& 0xF0FF#16 = encXNN (fieldC op) 0#4 (fieldNN op) := by
  conv_lhs => rw [← encXNN_fields op]
  exact encXNN_and_F0FF _ _ _

theorem and_FFF0 (op : Word) : op &&& 0xFFF0#16 = encXYN (fieldC op) (fieldX op) (fieldY op) 0#4 := by
  conv_lhs => rw [← encXYN_fields op]
  exact encXYN_and_FFF0 _ _ _ _

theorem and_FF0F (op : Word) : op &&& 0xFF0F#16 = encXYN (fieldC op) (fieldX op) 0#4 (fieldN op) := by
  conv_lhs => rw [← encXYN_fields op]
  exact encXYN_and_FF0F _ _ _ _

/-! ## What each class decodes to -/

/-- `i` stands for the word: it is well-formed, and its encoding is the word with the bits the row of `i` ignores cleared. -/
def StandsFor (i : Instr) (op : Word) : Prop := i.WellFormed ∧ encode i = op &&& usedBits i

/-- A row that uses the whole word, read as class and `nnn`. -/
theorem standsFor_nnn {op : Word} {i : Instr} {c : Nibble} (hw : i.WellFormed) (hu : usedBits i = 0xFFFF#16)
    (he : encode i = encNNN c (fieldNNN op)) (hc : fieldC op = c) : StandsFor i op :=
  ⟨hw, by rw [hu, and_FFFF, he, ← hc, encNNN_fields]⟩

/-- A row that uses the whole word, read as class, `x` and `nn`. -/
theorem standsFor_xnn {op : Word} {i : Instr} {c : Nibble} {nn : Byte} (hw : i.WellFormed) (hu : usedBits i = 0xFFFF#16)
    (he : encode i = encXNN c (fieldX op) nn) (hc : fieldC op = c) (hnn : fieldNN op = nn) : StandsFor i op :=
  ⟨hw, by rw [hu, and_FFFF, he, ← hc, ← hnn, encXNN_fields]⟩

/-- A row that uses the whole word, read as class, `x`, `y` and `n`. -/
theorem standsFor_xyn {op : Word} {i : Instr} {c n : Nibble} (hw : i.WellFormed) (hu : usedBits i = 0xFFFF#16)
    (he : encode i = encXYN c (fieldX op) (fieldY op) n) (hc : fieldC op = c) (hn : fieldN op = n) : StandsFor i op :=
  ⟨hw, by rw [hu, and_FFFF, he, ← hc, ← hn, encXYN_fields]⟩

/-- A row that ignores `x` (CLS and RET). -/
theorem standsFor_ignoring_x {op : Word} {i : Instr} {c : Nibble} {nn : Byte} (hw : i.WellFormed)
    (hu : usedBits i = 0xF0FF#16) (he : encode i = encXNN c 0#4 nn) (hc : fieldC op = c) (hnn : fieldNN op = nn) :
    StandsFor i op :=
  ⟨hw, by rw [hu, and_F0FF, he, hc, hnn]⟩

/-- A row that ignores `y` (SHR and SHL). -/
theorem standsFor_ignoring_y {op : Word} {i : Instr} {c n : Nibble} (hw : i.WellFormed)
    (hu : usedBits i = 0xFF0F#16) (he : encode i = encXYN c (fieldX op) 0#4 n) (hc : fieldC op = c) (hn : fieldN op = n) :
    StandsFor i op :=
  ⟨hw, by rw [hu, and_FF0F, he, hc, hn]⟩

/-- A row that ignores `n` (SE_REG and SNE_REG). -/
theorem standsFor_ignoring_n {op : Word} {i : Instr} {c : Nibble} (hw : i.WellFormed)
    (hu : usedBits i = 0xFFF0#16) (he : encode i = encXYN c (fieldX op) (fieldY op) 0#4) (hc : fieldC op = c) :
    StandsFor i op :=
  ⟨hw, by rw [hu, and_FFF0, he, hc]⟩

theorem decodeClass0_standsFor {op : Word} (hc : fieldC op = 0x0#4) : StandsFor (decodeClass0 op) op := by
  simp only [decodeClass0, Config.decodeKey0]
  split
  · next h => exact standsFor_ignoring_x rfl rfl rfl hc h
  · next hcls =>
    split
    · next h => exact standsFor_ignoring_x rfl rfl rfl hc h
    · next hret =>
      have hw : unrec0Ok (fieldNNN op) := by simp [unrec0Ok, Config.decodeKey0, hcls, hret]
      exact standsFor_nnn hw rfl rfl hc

theorem decodeClassE_standsFor {op : Word} (hc : fieldC op = 0xE#4) : StandsFor (decodeClassE op) op := by
  simp only [decodeClassE, Config.decodeKeyE]
  split
  · next h => exact standsFor_xnn rfl rfl rfl hc h
  · next hskp =>
    split
    · next h => exact standsFor_xnn rfl rfl rfl hc h
    · next hsknp =>
      have hw : unrecEOk (fieldNNN op) := by simp [unrecEOk, Config.decodeKeyE, hskp, hsknp]
      exact standsFor_nnn hw rfl rfl hc

theorem decodeClass8_standsFor {op : Word} (hc : fieldC op = 0x8#4) : StandsFor (decodeClass8 op) op := by
  by_cases hn : fieldN op ∈ ([0x0, 0x1, 0x2, 0x3, 0x4, 0x5, 0x6, 0x7, 0xE] : List Nibble)
  · simp only [List.mem_cons, List.not_mem_nil, or_false] at hn
    obtain h | h | h | h | h | h | h | h | h := hn <;> simp only [decodeClass8, h]
    case inr.inr.inr.inr.inr.inr.inl | inr.inr.inr.inr.inr.inr.inr.inr => exact standsFor_ignoring_y rfl rfl rfl hc h
    all_goals exact standsFor_xyn rfl rfl rfl hc h
  · rw [decodeClass8_of_not_mem hn]
    have hw : unrec8Ok (fieldNNN op) := by simpa [unrec8Ok] using hn
    exact standsFor_nnn hw rfl rfl hc

theorem decodeClassF_standsFor {op : Word} (hc : fieldC op = 0xF#4) : StandsFor (decodeClassF op) op := by
  by_cases hnn : fieldNN op ∈ ([0x07, 0x0A, 0x15, 0x18, 0x1E, 0x29, 0x33, 0x55, 0x65] : List Byte)
  · simp only [List.mem_cons, List.not_mem_nil, or_false] at hnn
    obtain h | h | h | h | h | h | h | h | h := hnn <;> simp only [decodeClassF, h]
    all_goals exact standsFor_xnn rfl rfl rfl hc h
  · rw [decodeClassF_of_not_mem hnn]
    have hw : unrecFOk (fieldNNN op) := by simpa [unrecFOk] using hnn
    exact standsFor_nnn hw rfl rfl hc

/-- Decoding is total, and what a word decodes to stands for it (R65, R67). -/
theorem decodeWord_standsFor (op : Word) : ∃ i, decodeWord op = .ok i ∧ StandsFor i op := by
  have hclass {c : Nibble} (h : (fieldC op).toNat = c.toNat) : fieldC op = c := BitVec.eq_of_toNat_eq h
  unfold decodeWord
  split
  case h_1 h => exact ⟨_, rfl, decodeClass0_standsFor (hclass h)⟩
  case h_9 h => exact ⟨_, rfl, decodeClass8_standsFor (hclass h)⟩
  case h_15 h => exact ⟨_, rfl, decodeClassE_standsFor (hclass h)⟩
  case h_16 =>
    refine ⟨_, rfl, decodeClassF_standsFor (hclass ?_)⟩
    have hlt := (fieldC op).isLt
    simp only [imp_false, BitVec.toNat_ofNat] at *
    omega
  case h_2 h | h_3 h | h_11 h | h_12 h => exact ⟨_, rfl, standsFor_nnn rfl rfl rfl (hclass h)⟩
  case h_4 h | h_5 h | h_7 h | h_8 h | h_13 h => exact ⟨_, rfl, standsFor_xnn rfl rfl rfl (hclass h) rfl⟩
  case h_14 h => exact ⟨_, rfl, standsFor_xyn rfl rfl rfl (hclass h) rfl⟩
  case h_6 h | h_10 h => exact ⟨_, rfl, standsFor_ignoring_n rfl rfl rfl (hclass h)⟩

/-- Settles O14: the encoding of what a word decodes to is that word with its ignored bits cleared, and decodes to the same
instruction because that instruction is well-formed. -/
theorem ignoredBitsAreTheOnlyOnesLost : Obligations.IgnoredBitsAreTheOnlyOnesLost := by
  intro op
  obtain ⟨i, hdecode, hwf, hencode⟩ := decodeWord_standsFor op
  refine ⟨i, hdecode, hencode, ?_⟩
  rw [← hencode, decodeWord_encode hwf]

end Sys2Proof
end

section
/-! PROOFS. The words of the rows (R63, R64): a word that matches a row decodes to the row's instruction with the word's fields. -/

namespace Sys2Proof.Machine

/-- A row that fixes the class alone. -/
theorem rowDecodes_of_class {c : Nibble} {f : Word → Instr} (h : ∀ op, fieldC op = c → decodeWord op = .ok (f op)) :
    RowDecodes 0xF000#16 (encNNN c 0#12) f :=
  fun op hop => h op (fieldC_of_and_F000 hop)

/-- A row of class 0x8 fixes the low nibble. -/
theorem rowDecodes_class8 (n : Nibble) {f : Word → Instr} (h : ∀ op, fieldN op = n → decodeClass8 op = f op) :
    RowDecodes 0xF00F#16 (encXYN 0x8#4 0#4 0#4 n) f := by
  intro op hop
  obtain ⟨hc, hn⟩ := fields_of_and_F00F hop
  rw [← h op hn]
  simp [decodeWord, hc]

/-- A row of class 0x0 fixes the low byte. -/
theorem rowDecodes_class0 (nn : Byte) {f : Word → Instr} (h : ∀ op, fieldNN op = nn → decodeClass0 op = f op) :
    RowDecodes 0xF0FF#16 (encXNN 0x0#4 0#4 nn) f := by
  intro op hop
  obtain ⟨hc, hnn⟩ := fields_of_and_F0FF hop
  rw [← h op hnn]
  simp [decodeWord, hc]

/-- A row of class 0xE fixes the low byte. -/
theorem rowDecodes_classE (nn : Byte) {f : Word → Instr} (h : ∀ op, fieldNN op = nn → decodeClassE op = f op) :
    RowDecodes 0xF0FF#16 (encXNN 0xE#4 0#4 nn) f := by
  intro op hop
  obtain ⟨hc, hnn⟩ := fields_of_and_F0FF hop
  rw [← h op hnn]
  simp [decodeWord, hc]

/-- A row of class 0xF fixes the low byte. -/
theorem rowDecodes_classF (nn : Byte) {f : Word → Instr} (h : ∀ op, fieldNN op = nn → decodeClassF op = f op) :
    RowDecodes 0xF0FF#16 (encXNN 0xF#4 0#4 nn) f := by
  intro op hop
  obtain ⟨hc, hnn⟩ := fields_of_and_F0FF hop
  rw [← h op hnn]
  simp [decodeWord, hc]

theorem rowDecodes_cls : RowDecodes 0xF0FF#16 0x00E0#16 (fun _ => .cls) :=
  rowDecodes_class0 0xE0#8 fun op h => by simp [decodeClass0, Config.decodeKey0, h]

theorem rowDecodes_ret : RowDecodes 0xF0FF#16 0x00EE#16 (fun _ => .ret) :=
  rowDecodes_class0 0xEE#8 fun op h => by simp [decodeClass0, Config.decodeKey0, h]

theorem rowDecodes_jp : RowDecodes 0xF000#16 0x1000#16 (fun op => .jp (fieldNNN op)) :=
  rowDecodes_of_class (c := 0x1#4) fun op h => by simp [decodeWord, h]

theorem rowDecodes_seReg : RowDecodes 0xF000#16 0x5000#16 (fun op => .seReg (fieldX op) (fieldY op)) :=
  rowDecodes_of_class (c := 0x5#4) fun op h => by simp [decodeWord, decodeClass59, Config.decode59Low, h]

theorem rowDecodes_sneReg : RowDecodes 0xF000#16 0x9000#16 (fun op => .sneReg (fieldX op) (fieldY op)) :=
  rowDecodes_of_class (c := 0x9#4) fun op h => by simp [decodeWord, decodeClass59, Config.decode59Low, h]

theorem rowDecodes_jpV0 : RowDecodes 0xF000#16 0xB000#16 (fun op => .jpV0 (fieldNNN op)) :=
  rowDecodes_of_class (c := 0xB#4) fun op h => by simp [decodeWord, h]

theorem rowDecodes_drw : RowDecodes 0xF000#16 0xD000#16 (fun op => .drw (fieldX op) (fieldY op) (fieldN op)) :=
  rowDecodes_of_class (c := 0xD#4) fun op h => by simp [decodeWord, h]

theorem rowDecodes_addReg : RowDecodes 0xF00F#16 0x8004#16 (fun op => .addReg (fieldX op) (fieldY op)) :=
  rowDecodes_class8 0x4#4 fun op h => by simp [decodeClass8, h]

theorem rowDecodes_sub : RowDecodes 0xF00F#16 0x8005#16 (fun op => .sub (fieldX op) (fieldY op)) :=
  rowDecodes_class8 0x5#4 fun op h => by simp [decodeClass8, h]

theorem rowDecodes_shr : RowDecodes 0xF00F#16 0x8006#16 (fun op => .shr (fieldX op)) :=
  rowDecodes_class8 0x6#4 fun op h => by simp [decodeClass8, h]

theorem rowDecodes_subn : RowDecodes 0xF00F#16 0x8007#16 (fun op => .subn (fieldX op) (fieldY op)) :=
  rowDecodes_class8 0x7#4 fun op h => by simp [decodeClass8, h]

theorem rowDecodes_shl : RowDecodes 0xF00F#16 0x800E#16 (fun op => .shl (fieldX op)) :=
  rowDecodes_class8 0xE#4 fun op h => by simp [decodeClass8, h]

theorem rowDecodes_skp : RowDecodes 0xF0FF#16 0xE09E#16 (fun op => .skp (fieldX op)) :=
  rowDecodes_classE 0x9E#8 fun op h => by simp [decodeClassE, Config.decodeKeyE, h]

theorem rowDecodes_sknp : RowDecodes 0xF0FF#16 0xE0A1#16 (fun op => .sknp (fieldX op)) :=
  rowDecodes_classE 0xA1#8 fun op h => by simp [decodeClassE, Config.decodeKeyE, h]

theorem rowDecodes_ldVxDt : RowDecodes 0xF0FF#16 0xF007#16 (fun op => .ldVxDt (fieldX op)) :=
  rowDecodes_classF 0x07#8 fun op h => by simp [decodeClassF, h]

theorem rowDecodes_waitkey : RowDecodes 0xF0FF#16 0xF00A#16 (fun op => .waitkey (fieldX op)) :=
  rowDecodes_classF 0x0A#8 fun op h => by simp [decodeClassF, h]

theorem rowDecodes_ldDtVx : RowDecodes 0xF0FF#16 0xF015#16 (fun op => .ldDtVx (fieldX op)) :=
  rowDecodes_classF 0x15#8 fun op h => by simp [decodeClassF, h]

theorem rowDecodes_ldStVx : RowDecodes 0xF0FF#16 0xF018#16 (fun op => .ldStVx (fieldX op)) :=
  rowDecodes_classF 0x18#8 fun op h => by simp [decodeClassF, h]

theorem rowDecodes_addI : RowDecodes 0xF0FF#16 0xF01E#16 (fun op => .addI (fieldX op)) :=
  rowDecodes_classF 0x1E#8 fun op h => by simp [decodeClassF, h]

theorem rowDecodes_bcd : RowDecodes 0xF0FF#16 0xF033#16 (fun op => .bcd (fieldX op)) :=
  rowDecodes_classF 0x33#8 fun op h => by simp [decodeClassF, h]

theorem rowDecodes_stm : RowDecodes 0xF0FF#16 0xF055#16 (fun op => .stm (fieldX op)) :=
  rowDecodes_classF 0x55#8 fun op h => by simp [decodeClassF, h]

theorem rowDecodes_ldm : RowDecodes 0xF0FF#16 0xF065#16 (fun op => .ldm (fieldX op)) :=
  rowDecodes_classF 0x65#8 fun op h => by simp [decodeClassF, h]

end Sys2Proof.Machine
end

section
/-! PROOFS. The decoder selects the most specific row (R64). -/

namespace Sys2Proof

open Machine

/-! ## Facts of the table -/

theorem opcodeTable_row_of_mnemonic :
    ∀ q ∈ opcodeTable, ∀ r ∈ opcodeTable, q.mnemonic = r.mnemonic → q = r := by decide

/-- Of two rows that some word can match, one examines more bits, and a row that examines less fixes the class alone. -/
theorem opcodeTable_compatible :
    ∀ q ∈ opcodeTable, ∀ r ∈ opcodeTable, q.pattern &&& r.mask = r.pattern &&& q.mask →
      q = r ∨ q.specificity < r.specificity ∨ q.mask ≠ 0xF000#16 := by decide

/-- Two rows that one word matches agree where both examine it. -/
theorem OpcodeRow.compatible_of_matchesWord {q r : OpcodeRow} {op : Word} (hq : q.matchesWord op = true)
    (hr : r.matchesWord op = true) : q.pattern &&& r.mask = r.pattern &&& q.mask := by
  simp only [OpcodeRow.matchesWord, beq_iff_eq] at hq hr
  rw [← hq, ← hr, BitVec.and_assoc, BitVec.and_assoc, BitVec.and_comm q.mask]

/-! ## The row of an instruction -/

theorem matchesRow (i : Instr) : Laws.MatchesRow.Statement i := by
  cases i with
  | cls => exact Laws.MatchesRow.cls
  | ret => exact Laws.MatchesRow.ret
  | unrec0 low => exact Laws.MatchesRow.unrec0 low
  | jp nnn => exact Laws.MatchesRow.jp nnn
  | call nnn => exact Laws.MatchesRow.call nnn
  | seImm x nn => exact Laws.MatchesRow.seImm x nn
  | sneImm x nn => exact Laws.MatchesRow.sneImm x nn
  | seReg x y => exact Laws.MatchesRow.seReg x y
  | ldImm x nn => exact Laws.MatchesRow.ldImm x nn
  | addImm x nn => exact Laws.MatchesRow.addImm x nn
  | mov x y => exact Laws.MatchesRow.mov x y
  | orReg x y => exact Laws.MatchesRow.orReg x y
  | andReg x y => exact Laws.MatchesRow.andReg x y
  | xorReg x y => exact Laws.MatchesRow.xorReg x y
  | addReg x y => exact Laws.MatchesRow.addReg x y
  | sub x y => exact Laws.MatchesRow.sub x y
  | shr x => exact Laws.MatchesRow.shr x
  | subn x y => exact Laws.MatchesRow.subn x y
  | shl x => exact Laws.MatchesRow.shl x
  | unrec8 low => exact Laws.MatchesRow.unrec8 low
  | sneReg x y => exact Laws.MatchesRow.sneReg x y
  | ldI nnn => exact Laws.MatchesRow.ldI nnn
  | jpV0 nnn => exact Laws.MatchesRow.jpV0 nnn
  | rnd x nn => exact Laws.MatchesRow.rnd x nn
  | drw x y n => exact Laws.MatchesRow.drw x y n
  | skp x => exact Laws.MatchesRow.skp x
  | sknp x => exact Laws.MatchesRow.sknp x
  | unrecE low => exact Laws.MatchesRow.unrecE low
  | ldVxDt x => exact Laws.MatchesRow.ldVxDt x
  | waitkey x => exact Laws.MatchesRow.waitkey x
  | ldDtVx x => exact Laws.MatchesRow.ldDtVx x
  | ldStVx x => exact Laws.MatchesRow.ldStVx x
  | addI x => exact Laws.MatchesRow.addI x
  | ldF x => exact Laws.MatchesRow.ldF x
  | bcd x => exact Laws.MatchesRow.bcd x
  | stm x => exact Laws.MatchesRow.stm x
  | ldm x => exact Laws.MatchesRow.ldm x
  | unrecF low => exact Laws.MatchesRow.unrecF low

/-- A row examines only bits its instructions use. -/
theorem opcodeTable_mask_used (i : Instr) :
    ∀ r ∈ opcodeTable, r.mnemonic = mnemonicOf i → r.mask &&& usedBits i = r.mask := by
  cases i <;> simp only [mnemonicOf, usedBits] <;> decide

/-- The row of an instruction matches every word the instruction stands for: the bits the row examines are used ones. -/
theorem StandsFor.matchesWord {i : Instr} {op : Word} {r : OpcodeRow} (h : StandsFor i op) (hr : r ∈ opcodeTable)
    (hi : r.mnemonic = mnemonicOf i) (hm : r.matchesWord (encode i) = true) : r.matchesWord op = true := by
  obtain ⟨_, hencode⟩ := h
  simp only [OpcodeRow.matchesWord, beq_iff_eq] at hm ⊢
  rw [← hm, hencode, BitVec.and_assoc, BitVec.and_comm (usedBits i), opcodeTable_mask_used i r hr hi]

/-! ## The rows that examine more than the class -/

/-- The words of a row decode to instructions of that row. -/
def RowSelects (r : OpcodeRow) : Prop := ∀ op, r.matchesWord op = true → ∃ i, decodeWord op = .ok i ∧ mnemonicOf i = r.mnemonic

theorem Machine.RowDecodes.rowSelects {name : String} {pattern mask : Word} {f : Word → Instr} (h : RowDecodes mask pattern f)
    (hf : ∀ op, mnemonicOf (f op) = name) : RowSelects ⟨name, pattern, mask⟩ :=
  fun op hop => ⟨f op, h op (by simpa [OpcodeRow.matchesWord] using hop), hf op⟩

/-- The words of a row that examines more than the class decode to instructions of that row. -/
theorem rowSelects_of_mask_ne : ∀ q ∈ opcodeTable, q.mask ≠ 0xF000#16 → RowSelects q := by
  simp only [opcodeTable, List.cons_append, List.nil_append, List.forall_mem_cons, ne_eq, not_true_eq_false, false_imp_iff, true_and]
  refine ⟨?_, ?_, ?_, ?_, ?_, ?_, ?_, ?_, ?_, ?_, ?_, ?_, ?_, ?_, ?_, ?_, ?_, ?_, ?_, ?_, ?_, ?_, nofun⟩ <;> intro _
  · exact rowDecodes_cls.rowSelects fun _ => rfl
  · exact rowDecodes_ret.rowSelects fun _ => rfl
  · exact rowDecodes_mov.rowSelects fun _ => rfl
  · exact rowDecodes_orReg.rowSelects fun _ => rfl
  · exact rowDecodes_andReg.rowSelects fun _ => rfl
  · exact rowDecodes_xorReg.rowSelects fun _ => rfl
  · exact rowDecodes_addReg.rowSelects fun _ => rfl
  · exact rowDecodes_sub.rowSelects fun _ => rfl
  · exact rowDecodes_shr.rowSelects fun _ => rfl
  · exact rowDecodes_subn.rowSelects fun _ => rfl
  · exact rowDecodes_shl.rowSelects fun _ => rfl
  · exact rowDecodes_skp.rowSelects fun _ => rfl
  · exact rowDecodes_sknp.rowSelects fun _ => rfl
  · exact rowDecodes_ldVxDt.rowSelects fun _ => rfl
  · exact rowDecodes_waitkey.rowSelects fun _ => rfl
  · exact rowDecodes_ldDtVx.rowSelects fun _ => rfl
  · exact rowDecodes_ldStVx.rowSelects fun _ => rfl
  · exact rowDecodes_addI.rowSelects fun _ => rfl
  · exact rowDecodes_ldF.rowSelects fun _ => rfl
  · exact rowDecodes_bcd.rowSelects fun _ => rfl
  · exact rowDecodes_stm.rowSelects fun _ => rfl
  · exact rowDecodes_ldm.rowSelects fun _ => rfl

/-- Settles O13: the row of the decoded instruction matches the word. -/
theorem decodeSelectsTheMostSpecificRow : Obligations.DecodeSelectsTheMostSpecificRow := by
  intro op
  obtain ⟨i, hdecode, hi⟩ := decodeWord_standsFor op
  obtain ⟨r, hr, hri, hm⟩ := matchesRow i
  have hrop : r.matchesWord op = true := hi.matchesWord hr hri hm
  refine ⟨i, hdecode, hi.1, r, hr, hri, hrop, fun q hq hqop hne => ?_⟩
  rcases opcodeTable_compatible q hq r hr (OpcodeRow.compatible_of_matchesWord hqop hrop) with h | h | h
  · exact absurd h hne
  · exact h
  · obtain ⟨j, hj, hname⟩ := rowSelects_of_mask_ne q hq h op hqop
    obtain rfl : i = j := by simpa [hdecode] using hj
    exact absurd (opcodeTable_row_of_mnemonic q hq r hr (by rw [hri, hname])) hne

end Sys2Proof
end

section
/-! SUPPORT. What an instruction does when it raises no fault, as one total function of the state, and the two cases of `exec` (R171, R172):
the fault of the table is entered, or the instruction completes. The statements about all instructions are derived from these. -/

namespace Sys2Proof.Machine

/-! ## The faulting operations by the table of R171 -/

/-- The `len` bytes from `I` on. -/
def State.bytesAtI (s : State) (len : Nat) : List Byte := (List.range len).map fun k => s.mem.read (s.base + k)

/-- The state after the newest slot is popped (R100). -/
def State.popped (s : State) : State := { s with sp := ⟨s.sp.val - 1, by omega⟩ }

/-- What the newest slot holds (R100). -/
def State.topSlot (s : State) : Word := s.stack.toList.getD (s.sp.val - 1) 0

/-- The state after the bytes are stored from `I` on (R48). -/
def State.storedAtI (s : State) (bs : List Byte) : State := { s with mem := s.mem.writeAll s.base bs }

theorem memRangeFault_eq (s : State) (len : Nat) :
    memRangeFault s len = if 0 < len ∧ 0xFFF < s.base + len - 1 then some (.memRange (max s.base 0x1000)) else none := by
  simp only [memRangeFault, outOfRange, decide_eq_true_eq]
  rfl

/-- A load from `I` answers the fault of the table, or the bytes. -/
theorem State.load_base (s : State) (len : Nat) :
    s.load s.base len = match memRangeFault s len with
      | some f => .error f
      | none => .ok (s.bytesAtI len) := by
  rw [State.load_eq, memRangeFault_eq]
  split <;> rfl

/-- A store from `I` answers the fault of the table, or the state with the bytes stored. -/
theorem State.store_base (s : State) (bs : List Byte) :
    s.store s.base bs = match memRangeFault s bs.length with
      | some f => .error f
      | none => .ok (s.storedAtI bs) := by
  rw [State.store_eq, memRangeFault_eq]
  split <;> rfl

/-- Key `k` is held when its place in the array is set. -/
theorem keyHeld_eq (s : State) (k : Fin 16) : keyHeld s k.val = s.keys[k] := by
  simp [keyHeld]

theorem State.topSlot_eq (s : State) (k : Fin 16) (h : s.sp.val = k.val + 1) : s.topSlot = s.stack[k] := by
  simp [State.topSlot, h]

/-! ## The effect of an instruction -/

/-- The state an instruction that raises no fault leaves, by the rules of spec/41_flow.md to spec/46_keys_timers.md. -/
def effect (i : Instr) (s : State) : State :=
  match i with
  | .cls => { s with fb := blankFrame, dirty := true }.advance 2#16
  | .ret => s.popped.setPc (s.topSlot + 2#16)
  | .unrec0 low => s.unrecognized (encNNN 0x0#4 low)
  | .jp nnn => s.setPc (immNNN nnn)
  | .call nnn => (s.push s.pc).setPc (immNNN nnn)
  | .seImm x nn => s.skipIf (s.getV x == nn)
  | .sneImm x nn => s.skipIf (s.getV x != nn)
  | .seReg x y => s.skipIf (s.getV x == s.getV y)
  | .ldImm x nn => (s.setV x nn).advance 2#16
  | .addImm x nn => (s.setV x (s.getV x + nn)).advance 2#16
  | .mov x y => (s.setV x (s.getV y)).advance 2#16
  | .orReg x y => (s.setV x (s.getV x ||| s.getV y)).advance 2#16
  | .andReg x y => (s.setV x (s.getV x &&& s.getV y)).advance 2#16
  | .xorReg x y => (s.setV x (s.getV x ^^^ s.getV y)).advance 2#16
  | .addReg x y =>
    let r := s.setV x (s.getV x + s.getV y)
    (r.setV 15#4 (carryFlag (r.getV x) (r.getV y))).advance 2#16
  | .sub x y =>
    let r := s.setV 15#4 (noBorrowFlag (s.getV x) (s.getV y))
    (r.setV x (r.getV x - r.getV y)).advance 2#16
  | .shr x =>
    let r := s.setV 15#4 (shrFlag (s.getV x))
    (r.setV x (r.getV x >>> 1)).advance 2#16
  | .subn x y =>
    let r := s.setV 15#4 (noBorrowFlag (s.getV y) (s.getV x))
    (r.setV x (r.getV y - r.getV x)).advance 2#16
  | .shl x =>
    let r := s.setV 15#4 (shlFlag (s.getV x))
    (r.setV x (r.getV x <<< 1)).advance 2#16
  | .unrec8 low => s.unrecognized (encNNN 0x8#4 low)
  | .sneReg x y => s.skipIf (s.getV x != s.getV y)
  | .ldI nnn => { s with i := immNNN nnn }.advance 2#16
  | .jpV0 nnn => s.setPc (immNNN nnn + zext16 (s.getV 0#4))
  | .rnd x nn => (s.setV x (nn &&& s.tickIn.rand)).advance 2#16
  | .drw x y n =>
    let drawn := blit (s.getV x).toNat (s.getV y).toNat (s.bytesAtI n.toNat) s.fb
    ({ s with fb := drawn.1, dirty := true }.setV 15#4 (collisionFlag drawn.2)).advance 2#16
  | .skp x => s.skipIf (keyHeld s (s.getV x).toNat)
  | .sknp x => s.skipIf (!keyHeld s (s.getV x).toNat)
  | .unrecE low => s.unrecognized (encNNN 0xE#4 low)
  | .ldVxDt x => (s.setV x s.dt).advance 2#16
  | .waitkey x => s.takeKey x
  | .ldDtVx x => { s with dt := s.getV x }.advance 2#16
  | .ldStVx x => { s with st := s.getV x }.advance 2#16
  | .addI x => { s with i := s.i + zext16 (s.getV x) }.advance 2#16
  | .ldF x => { s with i := fontAddr (s.getV x) }.advance 2#16
  | .bcd x => (s.storedAtI (bcdBytes (s.getV x))).advance 2#16
  | .stm x => ((s.storedAtI (s.firstVs (blockCount x))).bumpI x).advance 2#16
  | .ldm x => ((s.setVsFrom 0 (s.bytesAtI (blockCount x))).bumpI x).advance 2#16
  | .unrecF low => s.unrecognized (encNNN 0xF#4 low)

/-- How an instruction ends: the fault of the table entered, or its effect. -/
def resultOf (i : Instr) (s : State) : State :=
  match faultCondition i s with
  | some f => s.raise f
  | none => effect i s

/-! ## The instructions that can fault -/

theorem exec_ret (s : State) : exec .ret s = .next (resultOf .ret s) := by
  show orRaise s s.pop _ = _
  by_cases h : s.sp = 0
  · simp [resultOf, faultCondition, h, State.pop_empty]
  · have hk : s.sp.val = s.sp.val - 1 + 1 := by
      have : s.sp.val ≠ 0 := fun e => h (Fin.ext e)
      omega
    have hlt : s.sp.val - 1 < 16 := by omega
    simp [resultOf, faultCondition, h, State.pop_succ s (s.sp.val - 1) hlt hk, effect, State.popped,
      State.topSlot_eq s ⟨s.sp.val - 1, hlt⟩ hk]

/-- A key test answers the fault of the table, or its effect at the key the register names. -/
theorem orRaise_keyIndex (s : State) (x : Nibble) (e : Bool → State) :
    orRaise s (keyIndex (s.getV x)) (fun k => e s.keys[k]) =
      .next (match keyRangeFault s x with
        | some f => s.raise f
        | none => e (keyHeld s (s.getV x).toNat)) := by
  rw [keyIndex_eq, keyRangeFault]
  by_cases h : (s.getV x).toNat < 16
  · rw [dif_pos h, if_neg (by omega), orRaise_ok, ← keyHeld_eq]
  · rw [dif_neg h, if_pos (by omega), orRaise_error]

theorem exec_skp (x : Nibble) (s : State) : exec (.skp x) s = .next (resultOf (.skp x) s) :=
  orRaise_keyIndex s x fun held => s.skipIf held

theorem exec_sknp (x : Nibble) (s : State) : exec (.sknp x) s = .next (resultOf (.sknp x) s) :=
  orRaise_keyIndex s x fun held => s.skipIf (!held)

/-- An instruction that loads from `I` answers the fault of the table, or its effect on the bytes. -/
theorem orRaise_load_base (s : State) (len : Nat) (e : List Byte → State) :
    orRaise s (s.load s.base len) e =
      .next (match memRangeFault s len with
        | some f => s.raise f
        | none => e (s.bytesAtI len)) := by
  rw [State.load_base]
  cases memRangeFault s len <;> rfl

/-- An instruction that stores from `I` answers the fault of the table, or its effect on the state with the bytes stored. -/
theorem orRaise_store_base (s : State) (bs : List Byte) (e : State → State) :
    orRaise s (s.store s.base bs) e =
      .next (match memRangeFault s bs.length with
        | some f => s.raise f
        | none => e (s.storedAtI bs)) := by
  rw [State.store_base]
  cases memRangeFault s bs.length <;> rfl

theorem exec_drw (x y n : Nibble) (s : State) : exec (.drw x y n) s = .next (resultOf (.drw x y n) s) :=
  orRaise_load_base s n.toNat _

theorem exec_ldm (x : Nibble) (s : State) : exec (.ldm x) s = .next (resultOf (.ldm x) s) :=
  orRaise_load_base s (blockCount x) _

theorem exec_bcd (x : Nibble) (s : State) : exec (.bcd x) s = .next (resultOf (.bcd x) s) :=
  orRaise_store_base s (bcdBytes (s.getV x)) _

theorem exec_stm (x : Nibble) (s : State) : exec (.stm x) s = .next (resultOf (.stm x) s) := by
  have h := orRaise_store_base s (s.firstVs (blockCount x)) fun t => (t.bumpI x).advance 2#16
  rw [State.length_firstVs] at h
  exact h

/-! ## Every instruction -/

/-- Everything an instruction can answer: a next state, by the fault table and its effect. -/
theorem exec_eq (i : Instr) (s : State) : exec i s = .next (resultOf i s) := by
  cases i with
  | ret => exact exec_ret s
  | skp x => exact exec_skp x s
  | sknp x => exact exec_sknp x s
  | drw x y n => exact exec_drw x y n s
  | ldm x => exact exec_ldm x s
  | bcd x => exact exec_bcd x s
  | stm x => exact exec_stm x s
  | _ => rfl

theorem resultOf_of_fault {i : Instr} {s : State} {f : Fault} (h : faultCondition i s = some f) : resultOf i s = s.raise f := by
  simp only [resultOf, h]

theorem resultOf_of_no_fault {i : Instr} {s : State} (h : faultCondition i s = none) : resultOf i s = effect i s := by
  simp only [resultOf, h]

theorem exec_of_fault {i : Instr} {s : State} {f : Fault} (h : faultCondition i s = some f) :
    exec i s = .next (s.raise f) := by rw [exec_eq, resultOf_of_fault h]

theorem exec_of_no_fault {i : Instr} {s : State} (h : faultCondition i s = none) :
    exec i s = .next (effect i s) := by rw [exec_eq, resultOf_of_no_fault h]

/-- The two cases of an instruction: it faults by the table and only `status` is written, or it completes with its effect. -/
theorem exec_cases {i : Instr} {s t : State} (h : exec i s = .next t) :
    (∃ f, faultCondition i s = some f ∧ t = s.raise f) ∨ (faultCondition i s = none ∧ t = effect i s) := by
  cases hf : faultCondition i s with
  | some f => exact .inl ⟨f, rfl, by simpa [exec_of_fault hf] using h.symm⟩
  | none => exact .inr ⟨rfl, by simpa [exec_of_no_fault hf] using h.symm⟩

end Sys2Proof.Machine
end

section
/-! PROOFS. The statements about all instructions: faults (R171), `pc` (R14), the registers (R11, R12), the other state (R16 to R24) and what no
instruction reads (R20, R23, R28). Each is read off the effect of the instruction. -/

namespace Sys2Proof.Machine

/-! ## Faults and status -/

/-- No effect writes the key array, `status`, the script or the tick count. -/
theorem effect_keepsRun (i : Instr) (s : State) : KeepsRun s (effect i s) := by
  cases i with
  | ldm | waitkey => simp [effect, KeepsRun]
  | _ => exact ⟨rfl, rfl, rfl, rfl⟩

theorem effect_status (i : Instr) (s : State) : (effect i s).status = s.status := by
  obtain ⟨_, hstatus, _, _⟩ := effect_keepsRun i s
  exact hstatus

/-- Settles O7: the two cases of `exec`, and no effect writes `status`. -/
theorem faultTableDecidesEveryInstruction : Obligations.FaultTableDecidesEveryInstruction := by
  intro i s
  exact ⟨fun f hf => exec_of_fault hf, fun hf => ⟨_, exec_of_no_fault hf, effect_status i s⟩⟩

/-! ## The program counter -/

theorem State.advance_pc_toNat (s : State) : (s.advance 2#16).pc.toNat = (s.pc.toNat + 2) % 65536 := by
  simp [BitVec.toNat_add]

theorem State.skipIf_pc_skipStep (s : State) (c : Bool) :
    (s.skipIf c).pc.toNat = (s.pc.toNat + skipStep c) % 65536 := s.skipIf_pc_toNat c

theorem immNNN_toNat_mod (nnn : Low12) : (immNNN nnn).toNat = nnn.toNat % 65536 := by
  rw [immNNN_toNat, Nat.mod_eq_of_lt (by have := nnn.isLt; omega)]

/-- The scan finds a key exactly when one is held. -/
theorem State.firstKey_none_iff_contains (s : State) : s.firstKey = none ↔ s.keys.toList.contains true = false := by
  rw [State.firstKey_none, List.contains_eq_mem, decide_eq_false_iff_not, Vector.mem_toList_iff, Vector.mem_iff_getElem]
  constructor
  · rintro h ⟨k, hk, hkey⟩
    exact absurd (h ⟨k, hk⟩) (by simp [hkey])
  · intro h k
    by_contra hk
    exact h ⟨k.val, k.isLt, by simpa using hk⟩

theorem State.takeKey_pc_toNat (s : State) (x : Nibble) :
    (s.takeKey x).pc.toNat = (if s.keys.toList.contains true then s.pc.toNat + 2 else s.pc.toNat) % 65536 := by
  rcases s.takeKey_cases x with ⟨k, hk, ht⟩ | ⟨hnone, ht⟩
  · have hheld : s.keys.toList.contains true = true := by
      by_contra h
      simp [s.firstKey_none_iff_contains.mpr (by simpa using h)] at hk
    rw [ht, State.advance_pc_toNat, State.setV_pc, if_pos hheld]
  · rw [ht, s.firstKey_none_iff_contains.mp hnone, if_neg (by decide), Nat.mod_eq_of_lt s.pc.isLt]

/-- R14: an effect leaves `pc` where the table says. -/
theorem effect_pc_toNat (i : Instr) (s : State) : (effect i s).pc.toNat = nextPc i s % 65536 := by
  cases i with
  | jp nnn | call nnn => exact immNNN_toNat_mod nnn
  | jpV0 nnn => simp [effect, nextPc, immNNN_toNat, zext16_toNat]
  | ret => simp [effect, nextPc, State.topSlot]
  | seImm | sneImm | seReg | sneReg | skp | sknp => exact s.skipIf_pc_skipStep _
  | waitkey x => exact s.takeKey_pc_toNat x
  | ldm x =>
    simp only [effect, nextPc, State.advance_pc_toNat, State.bumpI_pc, State.setVsFrom_pc]
  | _ => exact State.advance_pc_toNat _

/-- Settles O8: an instruction that raises no fault completes with its effect, whose `pc` is by the table. -/
theorem eachInstructionLeavesPcAsRuled : Obligations.EachInstructionLeavesPcAsRuled :=
  fun i s hf => ⟨_, exec_of_no_fault hf, effect_pc_toNat i s⟩

/-! ## The registers -/

/-- Two register writes leave every register outside `W` when both are in `W`. -/
theorem State.keepsV_setV_setV {W : Nibble → Prop} (s : State) {x y : Nibble} (a b : Byte) (hx : W x) (hy : W y) :
    KeepsV W s ((s.setV x a).setV y b) := by
  intro r hr
  have hxr : x ≠ r := by rintro rfl; exact hr hx
  have hyr : y ≠ r := by rintro rfl; exact hr hy
  rw [State.getV_setV_of_ne _ b hyr, State.getV_setV_of_ne _ a hxr]

theorem State.keepsV_setV (s : State) (x : Nibble) (b : Byte) : KeepsV (· = x) s (s.setV x b) :=
  fun _ hr => s.getV_setV_of_ne b (Ne.symm hr)

theorem State.keepsV_takeKey (s : State) (x : Nibble) : KeepsV (· = x) s (s.takeKey x) := by
  rcases s.takeKey_cases x with ⟨k, _, ht⟩ | ⟨_, ht⟩ <;> rw [ht]
  · exact s.keepsV_setV x _
  · exact fun _ _ => rfl

@[simp] theorem State.length_bytesAtI (s : State) (n : Nat) : (s.bytesAtI n).length = n := by
  simp [State.bytesAtI]

theorem State.bytesAtI_getD (s : State) {n k : Nat} (h : k < n) : (s.bytesAtI n).getD k 0 = s.mem.read (s.base + k) := by
  simp [State.bytesAtI, List.getD, h]

/-- Loading a block into `V[0]` to `V[x]`: register `r` up to `x` takes byte `r`, the others are unchanged. -/
theorem State.getV_setVsFrom_bytesAtI (s : State) (x r : Nibble) :
    (s.setVsFrom 0 (s.bytesAtI (blockCount x))).getV r =
      if r.toNat ≤ x.toNat then s.mem.read (s.base + r.toNat) else s.getV r := by
  have hx : x.toNat < 16 := x.isLt
  rw [State.getV_setVsFrom _ _ _ (by simp [blockCount]; omega)]
  simp only [State.length_bytesAtI, blockCount]
  by_cases h : r.toNat ≤ x.toNat
  · rw [if_pos (by omega), if_pos h, State.bytesAtI_getD _ (by omega), Nat.sub_zero]
  · rw [if_neg (by omega), if_neg h]

theorem effect_keepsV (i : Instr) (s : State) : KeepsV (writesV i) s (effect i s) := by
  cases i with
  | ldImm x | addImm x | rnd x | mov x | orReg x | andReg x | xorReg x | ldVxDt x => exact s.keepsV_setV x _
  | addReg => exact s.keepsV_setV_setV _ _ (.inl rfl) (.inr rfl)
  | sub | subn | shr | shl => exact s.keepsV_setV_setV _ _ (.inr rfl) (.inl rfl)
  | drw => exact State.keepsV_setV { s with fb := _, dirty := true } 15#4 _
  | waitkey x => exact s.keepsV_takeKey x
  | ldm x =>
    intro r hr
    exact (s.getV_setVsFrom_bytesAtI x r).trans (if_neg hr)
  | _ => exact fun _ _ => rfl

/-- Settles O9: a fault writes no register, and an effect only those of the list. -/
theorem onlyListedRegistersAreWritten : Obligations.OnlyListedRegistersAreWritten := by
  intro i s t h
  rcases exec_cases h with ⟨f, _, rfl⟩ | ⟨_, rfl⟩
  · exact fun r _ => s.getV_raise f r
  · exact effect_keepsV i s

/-! ## The other state -/

theorem mnemonic_of_effect_i {i : Instr} {s : State} (h : (effect i s).i ≠ s.i) :
    mnemonicOf i ∈ ["LD_I", "ADD_I", "LD_F", "STM", "LDM"] := by
  cases i with
  | ldI | addI | ldF | stm | ldm => simp [mnemonicOf]
  | _ => simp [effect, State.popped, State.storedAtI] at h

theorem mnemonic_of_effect_stack {i : Instr} {s : State} (h : (effect i s).stack ≠ s.stack) : mnemonicOf i = "CALL" := by
  cases i with
  | call => rfl
  | _ => simp [effect, State.popped, State.storedAtI] at h

theorem mnemonic_of_effect_sp {i : Instr} {s : State} (h : (effect i s).sp ≠ s.sp) : mnemonicOf i ∈ ["CALL", "RET"] := by
  cases i with
  | call | ret => simp [mnemonicOf]
  | _ => simp [effect, State.storedAtI] at h

theorem mnemonic_of_effect_dt {i : Instr} {s : State} (h : (effect i s).dt ≠ s.dt) : mnemonicOf i = "LD_DT_VX" := by
  cases i with
  | ldDtVx => rfl
  | _ => simp [effect, State.popped, State.storedAtI] at h

theorem mnemonic_of_effect_st {i : Instr} {s : State} (h : (effect i s).st ≠ s.st) : mnemonicOf i = "LD_ST_VX" := by
  cases i with
  | ldStVx => rfl
  | _ => simp [effect, State.popped, State.storedAtI] at h

theorem mnemonic_of_effect_mem {i : Instr} {s : State} (h : (effect i s).mem ≠ s.mem) : mnemonicOf i ∈ ["BCD", "STM"] := by
  cases i with
  | bcd | stm => simp [mnemonicOf]
  | _ => simp [effect, State.popped] at h

theorem mnemonic_of_effect_fb {i : Instr} {s : State} (h : (effect i s).fb ≠ s.fb) : mnemonicOf i ∈ ["CLS", "DRW"] := by
  cases i with
  | cls | drw => simp [mnemonicOf]
  | _ => simp [effect, State.popped, State.storedAtI] at h

theorem mnemonic_of_effect_dirty {i : Instr} {s : State} (h : (effect i s).dirty ≠ s.dirty) : mnemonicOf i ∈ ["CLS", "DRW"] := by
  cases i with
  | cls | drw => simp [mnemonicOf]
  | _ => simp [effect, State.popped, State.storedAtI] at h

theorem mnemonic_of_effect_events {i : Instr} {s : State} (h : (effect i s).events ≠ s.events) :
    mnemonicOf i ∈ ["UNREC_0", "UNREC_8", "UNREC_E", "UNREC_F"] := by
  cases i with
  | unrec0 | unrec8 | unrecE | unrecF => simp [mnemonicOf]
  | _ => simp [effect, State.popped, State.storedAtI] at h

/-- Settles O10: a fault writes `status` alone, and each piece of state changes only in the effects the list names. -/
theorem onlyNamedInstructionsWriteEachState : Obligations.OnlyNamedInstructionsWriteEachState := by
  intro i s t h
  rcases exec_cases h with ⟨f, _, rfl⟩ | ⟨_, rfl⟩
  · simp
  · obtain ⟨hkeys, _, hinputs, hticks⟩ := effect_keepsRun i s
    refine ⟨mnemonic_of_effect_i, mnemonic_of_effect_stack, mnemonic_of_effect_sp, mnemonic_of_effect_dt, mnemonic_of_effect_st,
      ?_, mnemonic_of_effect_fb, mnemonic_of_effect_dirty, mnemonic_of_effect_events, hkeys, hinputs, hticks⟩
    rintro ⟨a, ha⟩
    exact mnemonic_of_effect_mem fun e => ha (by rw [e])

/-- Settles O23: only the effects of CLS and DRW write `dirty`, and both set it. -/
theorem exactlyClsAndDrwMakeTheBufferDirty : Obligations.ExactlyClsAndDrwMakeTheBufferDirty := by
  intro i s hclean hf
  refine ⟨_, exec_of_no_fault hf, fun hdirty => ?_, ?_⟩
  · simpa using mnemonic_of_effect_dirty (i := i) (s := s) (by simp [hdirty, hclean])
  · cases i with
    | cls | drw => exact fun _ => rfl
    | _ => simp [mnemonicOf]

/-! ## What no instruction reads -/

/-- The state with another ST, `dirty` and record of outputs. -/
def State.withHidden (s : State) (st : Byte) (dirty : Bool) (events : List Event) : State :=
  { s with st := st, dirty := dirty, events := events }

/-- Two states agree in all a program can see. -/
def AgreeVisibly (t' t : State) : Prop :=
  t'.v = t.v ∧ t'.i = t.i ∧ t'.pc = t.pc ∧ t'.stack = t.stack ∧ t'.sp = t.sp ∧ t'.dt = t.dt ∧
    t'.mem = t.mem ∧ t'.fb = t.fb ∧ t'.keys = t.keys ∧ t'.status = t.status

theorem State.setVsFrom_withHidden (s : State) (st : Byte) (dirty : Bool) (events : List Event) (k : Nat) (bs : List Byte) :
    (s.withHidden st dirty events).setVsFrom k bs = (s.setVsFrom k bs).withHidden st dirty events := by
  induction bs generalizing s k with
  | nil => rfl
  | cons b bs ih => exact ih (s.setV (BitVec.ofNat 4 k) b) (k + 1)

theorem State.takeKey_withHidden (s : State) (st : Byte) (dirty : Bool) (events : List Event) (x : Nibble) :
    (s.withHidden st dirty events).takeKey x = (s.takeKey x).withHidden st dirty events := by
  rcases s.takeKey_cases x with ⟨k, hk, ht⟩ | ⟨hnone, ht⟩
  · rw [State.takeKey_of_firstKey (s := s.withHidden st dirty events) hk, ht]; rfl
  · rw [State.takeKey_of_none (s := s.withHidden st dirty events) hnone, ht]

/-- The fault table does not read the hidden state. -/
theorem faultCondition_withHidden (i : Instr) (s : State) (st : Byte) (dirty : Bool) (events : List Event) :
    faultCondition i (s.withHidden st dirty events) = faultCondition i s := by
  cases i <;> rfl

theorem effect_withHidden (i : Instr) (s : State) (st : Byte) (dirty : Bool) (events : List Event) :
    AgreeVisibly (effect i (s.withHidden st dirty events)) (effect i s) := by
  cases i with
  | ldm x =>
    have h : effect (.ldm x) (s.withHidden st dirty events) = (effect (.ldm x) s).withHidden st dirty events := by
      simp only [effect, State.setVsFrom_withHidden]; rfl
    rw [h]
    exact ⟨rfl, rfl, rfl, rfl, rfl, rfl, rfl, rfl, rfl, rfl⟩
  | waitkey x =>
    have h : effect (.waitkey x) (s.withHidden st dirty events) = (effect (.waitkey x) s).withHidden st dirty events :=
      s.takeKey_withHidden st dirty events x
    rw [h]
    exact ⟨rfl, rfl, rfl, rfl, rfl, rfl, rfl, rfl, rfl, rfl⟩
  | _ => exact ⟨rfl, rfl, rfl, rfl, rfl, rfl, rfl, rfl, rfl, rfl⟩

/-- Settles O11: neither the fault table nor the visible part of an effect reads ST, `dirty` or the outputs. -/
theorem hiddenStateIsNeverRead : Obligations.HiddenStateIsNeverRead := by
  intro i s t st' dirty' events' h
  rcases exec_cases h with ⟨f, hf, rfl⟩ | ⟨hf, rfl⟩
  · have hf' : faultCondition i (s.withHidden st' dirty' events') = some f := by rw [faultCondition_withHidden, hf]
    exact ⟨_, exec_of_fault hf', rfl, rfl, rfl, rfl, rfl, rfl, rfl, rfl, rfl, rfl⟩
  · have hf' : faultCondition i (s.withHidden st' dirty' events') = none := by rw [faultCondition_withHidden, hf]
    exact ⟨_, exec_of_no_fault hf', effect_withHidden i s st' dirty' events'⟩

end Sys2Proof.Machine
end

section
/-! SUPPORT. One tick (spec/40_cycle.md R80 to R91): what a step does in each of its cases, and that there is no other case. -/

namespace Sys2Proof.Machine

/-- The word at `pc` (R47). -/
def State.wordAtPc (s : State) : Word := wordOfBytes (s.mem.read s.pc.toNat) (s.mem.read (s.pc.toNat + 1))

theorem step_of_not_running {s : State} (h : s.status ≠ .running) : step s = .next s := by
  unfold step
  split
  · next hrun => exact absurd hrun h
  · rfl
  · rfl

theorem step_of_running {s : State} (h : s.status = .running) : step s = tick s := by
  simp only [step, h]

theorem step_of_quit {s : State} (hrun : s.status = .running) (hquit : s.tickIn.quit = true) : step s = .next s.quit := by
  rw [step_of_running hrun, tick, if_pos hquit]

theorem State.fetch_of_le {s : State} (hpc : s.pc.toNat ≤ 0xFFE) : s.fetch = .ok s.wordAtPc := by
  rw [State.fetch_eq, if_neg (Nat.not_lt.mpr hpc), State.wordAtPc]

theorem State.fetch_of_gt {s : State} (hpc : 0xFFE < s.pc.toNat) : s.fetch = .error (.fetchRange s.pc) := by
  rw [State.fetch_eq, if_pos hpc]

theorem State.wordAtPc_sampleKeys (s : State) : s.sampleKeys.wordAtPc = s.wordAtPc := by
  simp [State.wordAtPc]

theorem State.sampleKeys_eq (s : State) : s.sampleKeys = { s with keys := keysOfWord s.tickIn.keys } := rfl

theorem step_of_fetch_fault {s : State} (hrun : s.status = .running) (hquit : s.tickIn.quit = false)
    (hpc : 0xFFE < s.pc.toNat) : step s = .next (s.sampleKeys.raise (.fetchRange s.pc)) := by
  have hfetch : s.sampleKeys.fetch = .error (.fetchRange s.pc) := by
    rw [State.fetch_of_gt (by simpa using hpc), State.sampleKeys_pc]
  rw [step_of_running hrun, tick, if_neg (by simp [hquit])]
  simp only [hfetch]

theorem step_of_decode {s : State} {i : Instr} (hrun : s.status = .running) (hquit : s.tickIn.quit = false)
    (hpc : s.pc.toNat ≤ 0xFFE) (hdecode : decodeWord s.wordAtPc = .ok i) :
    step s = finishOutcome (exec i s.sampleKeys) := by
  have hfetch : s.sampleKeys.fetch = .ok s.wordAtPc := by
    rw [State.fetch_of_le (by simpa using hpc), State.wordAtPc_sampleKeys]
  rw [step_of_running hrun, tick, if_neg (by simp [hquit])]
  simp only [hfetch, runWord, hdecode]

/-- The end of a tick writes no key. -/
@[simp] theorem State.finishTick_keys (s : State) : s.finishTick.keys = s.keys := by
  unfold State.finishTick
  split
  · simp
  · rfl

/-- The cases of a step: how the state after it comes from the state before it. -/
inductive StepCase (s : State) : State → Prop
  /-- R80, R173: a machine that does not run stands -/
  | stands (hstatus : s.status ≠ .running) : StepCase s s
  /-- R81 -/
  | quits (hrun : s.status = .running) (hquit : s.tickIn.quit = true) : StepCase s s.quit
  /-- R47, R171 -/
  | fetchFaults (hrun : s.status = .running) (hquit : s.tickIn.quit = false) (hpc : 0xFFE < s.pc.toNat) :
      StepCase s (s.sampleKeys.raise (.fetchRange s.pc))
  /-- R91, R172 -/
  | faults (i : Instr) (f : Fault) (hrun : s.status = .running) (hquit : s.tickIn.quit = false) (hpc : s.pc.toNat ≤ 0xFFE)
      (hdecode : decodeWord s.wordAtPc = .ok i) (hf : faultCondition i s.sampleKeys = some f) :
      StepCase s (s.sampleKeys.raise f)
  /-- R84 to R90 -/
  | completes (i : Instr) (hrun : s.status = .running) (hquit : s.tickIn.quit = false) (hpc : s.pc.toNat ≤ 0xFFE)
      (hdecode : decodeWord s.wordAtPc = .ok i) (hf : faultCondition i s.sampleKeys = none) :
      StepCase s (effect i s.sampleKeys).finishTick

theorem step_of_instruction_fault {s : State} {i : Instr} {f : Fault} (hrun : s.status = .running)
    (hquit : s.tickIn.quit = false) (hpc : s.pc.toNat ≤ 0xFFE) (hdecode : decodeWord s.wordAtPc = .ok i)
    (hf : faultCondition i s.sampleKeys = some f) : step s = .next (s.sampleKeys.raise f) := by
  rw [step_of_decode hrun hquit hpc hdecode, exec_of_fault hf, finishOutcome_next, State.finishTick_faulted (by simp)]

/-- Every step answers a next state, by one of the cases. -/
theorem step_case (s : State) : ∃ t, step s = .next t ∧ StepCase s t := by
  by_cases hrun : s.status = .running
  case neg => exact ⟨_, step_of_not_running hrun, .stands hrun⟩
  cases hquit : s.tickIn.quit with
  | true => exact ⟨_, step_of_quit hrun hquit, .quits hrun hquit⟩
  | false =>
    by_cases hpc : s.pc.toNat ≤ 0xFFE
    case neg =>
      have hpc : 0xFFE < s.pc.toNat := Nat.lt_of_not_le hpc
      exact ⟨_, step_of_fetch_fault hrun hquit hpc, .fetchFaults hrun hquit hpc⟩
    obtain ⟨i, hdecode, _⟩ := decodeWord_standsFor s.wordAtPc
    cases hf : faultCondition i s.sampleKeys with
    | some f =>
      exact ⟨_, step_of_instruction_fault hrun hquit hpc hdecode hf, .faults i f hrun hquit hpc hdecode hf⟩
    | none =>
      refine ⟨_, ?_, .completes i hrun hquit hpc hdecode hf⟩
      rw [step_of_decode hrun hquit hpc hdecode, exec_of_no_fault hf, finishOutcome_next]

theorem stepCase_of_step {s t : State} (h : step s = .next t) : StepCase s t := by
  obtain ⟨u, hu, hcase⟩ := step_case s
  obtain rfl : u = t := by simpa [hu] using h
  exact hcase

/-- The bytes at `pc` decode to `i` alone exactly when the word there does. -/
theorem decodeWord_wordAtPc {s : State} {i : Instr}
    (h : decode [s.mem.read s.pc.toNat, s.mem.read (s.pc.toNat + 1)] = .ok (i, [])) : decodeWord s.wordAtPc = .ok i := by
  rw [decode] at h
  unfold State.wordAtPc
  split at h
  · next j hj => simpa [hj] using h
  · cases h

end Sys2Proof.Machine
end

section
/-! PROOFS. The statements about one tick (R47, R80 to R91, R173). -/

namespace Sys2Proof.Machine

/-- Settles O6: the cases of a step are all of them, and each answers a next state. -/
theorem stepAlwaysAnswersANextState : Obligations.StepAlwaysAnswersANextState := by
  intro s
  obtain ⟨t, ht, _⟩ := step_case s
  exact ⟨t, ht⟩

/-- Settles O16: the two cases of a fetch, and the word of two bytes as a number. -/
theorem fetchIsBigEndianAndBounded : Obligations.FetchIsBigEndianAndBounded := by
  intro s
  refine ⟨fun hpc => ?_, fun hpc => ⟨_, ?_, wordOfBytes_toNat _ _⟩⟩
  · exact State.fetch_of_gt hpc
  · exact State.fetch_of_le hpc

/-- Settles O17: the case of a step that decodes an instruction. -/
theorem stepRunsTheDecodedInstruction : Obligations.StepRunsTheDecodedInstruction := by
  intro s i hrun hquit hpc _ hdecode
  rw [← State.sampleKeys_eq]
  exact step_of_decode hrun hquit hpc (decodeWord_wordAtPc hdecode)

/-- Settles O18: the case of a step that does not run. -/
theorem stoppedOrFaultedMachineStands : Obligations.StoppedOrFaultedMachineStands :=
  fun _ h => step_of_not_running h

/-- Settles O19: the case of a step that quits. -/
theorem quitTickOnlyStops : Obligations.QuitTickOnlyStops :=
  fun _ hrun hquit => step_of_quit hrun hquit

/-- Settles O20: the case of a step whose fetch faults. -/
theorem fetchFaultTickRecordsFetchRange : Obligations.FetchFaultTickRecordsFetchRange := by
  intro s hrun hquit hpc
  rw [step_of_fetch_fault hrun hquit hpc, State.sampleKeys_eq, State.raise]

/-- Settles O21: the end of a tick is the present, the timers and the pace, and each field is that of these three. -/
theorem everyCompletedTickCountsBothTimers : Obligations.EveryCompletedTickCountsBothTimers := by
  intro s i t hrun hquit hpc _ hdecode hexec hstatus
  rw [← State.sampleKeys_eq] at hexec
  refine ⟨t.present.countTimers.pace, ?_, ?_⟩
  · rw [step_of_decode hrun hquit hpc (decodeWord_wordAtPc hdecode), hexec, finishOutcome_next, State.finishTick_running hstatus]
  · simp [countDown_toNat]

/-- Settles O22: the case of a step whose instruction faults. -/
theorem faultedTickSkipsPresentAndTimers : Obligations.FaultedTickSkipsPresentAndTimers := by
  intro s i f hrun hquit hpc _ hdecode hf
  rw [← State.sampleKeys_eq] at hf
  rw [step_of_instruction_fault hrun hquit hpc (decodeWord_wordAtPc hdecode) hf, State.sampleKeys_eq, State.raise]

/-- R81, R82: a running tick ends with the keys of its input, or with the keys as they were when it quits. -/
theorem step_keys {s : State} (hrun : s.status = .running) :
    ∃ u, step s = .next u ∧ ∀ k : Fin 16, u.keys[k] = if s.tickIn.quit then s.keys[k] else s.tickIn.keys.getLsbD k.val := by
  obtain ⟨u, hu, hcase⟩ := step_case s
  refine ⟨u, hu, fun k => ?_⟩
  cases hcase with
  | stands hstatus => exact absurd hrun hstatus
  | quits _ hquit => simp [hquit]
  | fetchFaults _ hquit => simp [hquit]
  | faults i f _ hquit => simp [hquit]
  | completes i _ hquit =>
    obtain ⟨hkeys, _⟩ := effect_keepsRun i s.sampleKeys
    simp [hquit, hkeys]

/-- Settles O58: the tick's input is the first record of the script, or free when the script is used up. -/
theorem everyTickHoldsTheKeysOfItsInput : Obligations.EveryTickHoldsTheKeysOfItsInput := by
  refine ⟨fun s r rest hrun hinputs => ?_, fun s hrun hinputs => ?_⟩
  · rw [← s.tickIn_cons r rest hinputs]
    exact step_keys hrun
  · have hfree := s.tickIn_nil hinputs
    have h := step_keys hrun
    rw [hfree] at h
    exact h

end Sys2Proof.Machine
end

section
/-! PROOFS. The invariant of reachable states (R30): it holds at construction, and each case of a step keeps each of its clauses. -/

namespace Sys2Proof.Machine

/-! ## What an effect keeps -/

/-- Only BCD and STM write memory, and a store keeps the canonical form. -/
theorem effect_mem_wf {s : State} (i : Instr) (h : s.mem.wf) : (effect i s).mem.wf := by
  cases i with
  | bcd | stm => exact Memory.writeAll_wf _ _ h
  | ldm | waitkey => simpa [effect] using h
  | _ => exact h

/-- Every live slot of the stack holds a fetchable address (R30). -/
def State.SlotsFetchable (s : State) : Prop := ∀ k : Fin 16, k.val < s.sp.val → s.stack[k].toNat ≤ 0xFFE

/-- A push of a fetchable address keeps the live slots fetchable: it makes live the slot it writes and, after a wrap, no other. -/
theorem State.SlotsFetchable.push {s : State} {a : Word} (h : s.SlotsFetchable) (ha : a.toNat ≤ 0xFFE) :
    (s.push a).SlotsFetchable := by
  intro k hk
  simp only [State.push_sp] at hk
  simp only [State.push_stack, Fin.getElem_fin, Vector.getElem_set]
  split
  · exact ha
  · next hne => exact h k (by have := Nat.mod_le s.sp.val 16; omega)

theorem effect_slotsFetchable {s : State} (i : Instr) (h : s.SlotsFetchable) (hpc : s.pc.toNat ≤ 0xFFE) :
    (effect i s).SlotsFetchable := by
  cases i with
  | call => exact h.push hpc
  | ret => exact fun k hk => h k (by simp [effect, State.popped] at hk; omega)
  | ldm | waitkey => simpa [State.SlotsFetchable, effect] using h
  | _ => exact h

theorem skipStep_le (c : Bool) : skipStep c ≤ 4 := by cases c <;> decide

/-- A pop answers a fetchable address. -/
theorem State.SlotsFetchable.topSlot {s : State} (h : s.SlotsFetchable) (hsp : s.sp ≠ 0) : s.topSlot.toNat ≤ 0xFFE := by
  have hpos : s.sp.val ≠ 0 := fun e => hsp (Fin.ext e)
  have hk : s.sp.val - 1 < 16 := by omega
  rw [s.topSlot_eq ⟨s.sp.val - 1, hk⟩ (by simp only; omega)]
  exact h _ (by simp only; omega)

/-- From a fetchable `pc` no instruction goes past the largest target of JP_V0, 0xFFF + 0xFF (R103). -/
theorem nextPc_le {s : State} {i : Instr} (hf : faultCondition i s = none) (hslots : s.SlotsFetchable)
    (hpc : s.pc.toNat ≤ 0xFFE) : nextPc i s ≤ 0x10FE := by
  have hskip (c : Bool) : s.pc.toNat + skipStep c ≤ 0x10FE := by have := skipStep_le c; omega
  cases i with
  | jp nnn | call nnn => have := nnn.isLt; simp only [nextPc]; omega
  | jpV0 nnn =>
    have := nnn.isLt
    have := (s.getV 0#4).isLt
    simp only [nextPc]; omega
  | ret =>
    have hsp : s.sp ≠ 0 := by simpa [faultCondition] using hf
    have : nextPc .ret s = s.topSlot.toNat + 2 := rfl
    have := hslots.topSlot hsp
    omega
  | seImm | sneImm | seReg | sneReg | skp | sknp => exact hskip _
  | waitkey => simp only [nextPc]; split <;> omega
  | _ => simp only [nextPc]; omega

/-- A diagnostic after an instruction stood there before, or is of that instruction's own word and address, in an UNREC row. -/
theorem diag_of_effect {i : Instr} {s : State} {op a : Word} (h : Event.diag op a ∈ (effect i s).events) :
    Event.diag op a ∈ s.events ∨
      (op = encode i ∧ a = s.pc ∧ mnemonicOf i ∈ ["UNREC_0", "UNREC_8", "UNREC_E", "UNREC_F"]) := by
  cases i with
  | unrec0 | unrec8 | unrecE | unrecF =>
    rcases List.mem_cons.mp h with h | h
    · cases h
      exact .inr ⟨rfl, rfl, by simp [mnemonicOf]⟩
    · exact .inl h
  | ldm | waitkey => exact .inl (by simpa [effect] using h)
  | _ => exact .inl h

/-! ## What a fault records -/

theorem faultFits_of_memRangeFault {s : State} {len : Nat} {f : Fault} (hlen : len ≤ 16) (h : memRangeFault s len = some f) :
    faultFits s f := by
  rw [memRangeFault_eq] at h
  split at h
  · next hrange =>
    obtain rfl := Option.some.inj h
    simp only [State.base] at hrange
    exact ⟨rfl, by omega⟩
  · cases h

theorem faultFits_of_keyRangeFault {s : State} {x : Nibble} {f : Fault} (h : keyRangeFault s x = some f) : faultFits s f := by
  unfold keyRangeFault at h
  split at h
  · next hlarge =>
    obtain rfl := Option.some.inj h
    exact ⟨hlarge, x, rfl⟩
  · cases h

/-- R171: the fault an instruction raises fits the state it is raised in. -/
theorem faultFits_of_faultCondition {i : Instr} {s : State} {f : Fault} (h : faultCondition i s = some f) : faultFits s f := by
  cases i with
  | drw x y n => exact faultFits_of_memRangeFault (by have := n.isLt; omega) h
  | bcd x => exact faultFits_of_memRangeFault (by decide) h
  | stm x | ldm x => exact faultFits_of_memRangeFault (by have := x.isLt; omega) h
  | skp x | sknp x => exact faultFits_of_keyRangeFault h
  | ret =>
    simp only [faultCondition] at h
    split at h
    · next hsp =>
      obtain rfl := Option.some.inj h
      exact ⟨rfl, hsp⟩
    · cases h
  | _ => cases h

theorem faultFits_raise {s : State} {f : Fault} (g : Fault) (h : faultFits s f) : faultFits (s.raise g) f := by
  cases f <;> exact h

/-! ## The invariant through the phases of a tick -/

/-- R82: sampling the keys of a running machine keeps the invariant. -/
theorem Inv.sampleKeys {s : State} (h : Inv s) (hrun : s.status = .running) : Inv s.sampleKeys := by
  constructor
  case memory => simpa using h.memory
  case clean => simpa using h.clean
  case slots => simpa using h.slots
  case pcBound => simpa using h.pcBound
  case faultRecord => simp [hrun]
  case diagnostics => simpa using h.diagnostics

/-- R171: a fetch fault fits the state it is raised in. -/
theorem faultFits_fetchRange {s : State} (hpc : 0xFFE < s.pc.toNat) : faultFits s.sampleKeys (.fetchRange s.pc) := by
  simp only [faultFits, State.sampleKeys_pc]
  exact ⟨trivial, hpc⟩

/-- R172: entering a fault that fits the state keeps the invariant. -/
theorem Inv.raise {s : State} {f : Fault} (h : Inv s) (hf : faultFits s f) : Inv (s.raise f) where
  memory := h.memory
  clean := h.clean
  slots := h.slots
  pcBound := h.pcBound
  faultRecord g hg := by
    obtain rfl : f = g := by simpa using hg
    exact faultFits_raise f hf
  diagnostics := h.diagnostics

theorem Inv.quit {s : State} (h : Inv s) : Inv s.quit where
  memory := h.memory
  clean := h.clean
  slots := h.slots
  pcBound := h.pcBound
  faultRecord := by simp
  diagnostics := h.diagnostics

/-- An instruction that completes in a running machine, and the end of its tick, keep the invariant. -/
theorem Inv.effect_finishTick {s : State} {i : Instr} (h : Inv s) (hrun : s.status = .running) (hpc : s.pc.toNat ≤ 0xFFE)
    (hwf : i.WellFormed) (hf : faultCondition i s = none) : Inv (effect i s).finishTick := by
  have hstatus : (effect i s).status = .running := (effect_status i s).trans hrun
  rw [State.finishTick_running hstatus]
  constructor
  case memory => simpa using effect_mem_wf i h.memory
  case clean => simp
  case slots => simpa [State.SlotsFetchable] using effect_slotsFetchable i h.slots hpc
  case pcBound =>
    have := nextPc_le hf h.slots hpc
    simp only [State.pace_pc, State.countTimers_pc, State.present_pc, effect_pc_toNat]
    omega
  case faultRecord => simp [hstatus]
  case diagnostics =>
    intro op a hmem
    have hmem' : Event.diag op a ∈ (effect i s).events := by
      simp only [State.pace_events, State.countTimers_events, State.present_events] at hmem
      split at hmem
      · simpa using hmem
      · exact hmem
    rcases diag_of_effect hmem' with hold | ⟨rfl, rfl, hunrec⟩
    · exact h.diagnostics op a hold
    · exact ⟨⟨i, decodeWord_encode hwf, hunrec⟩, hpc⟩

/-- Settles O5: by the cases of a step; a machine that stands or quits changes nothing the invariant reads but `status`, a fault fits the
state it is raised in, and an instruction that completes keeps each clause. -/
theorem stepKeepsTheInvariant : Obligations.StepKeepsTheInvariant := by
  intro s t h hstep
  cases stepCase_of_step hstep with
  | stands => exact h
  | quits => exact h.quit
  | fetchFaults hrun _ hpc => exact (h.sampleKeys hrun).raise (faultFits_fetchRange hpc)
  | faults i f hrun _ _ _ hf => exact (h.sampleKeys hrun).raise (faultFits_of_faultCondition hf)
  | completes i hrun _ hpc hdecode hf =>
    obtain ⟨j, hj, hwf, _⟩ := decodeWord_standsFor s.wordAtPc
    obtain rfl : i = j := by simpa [hdecode] using hj
    exact (h.sampleKeys hrun).effect_finishTick (by simpa using hrun) (by simpa using hpc) hwf hf

end Sys2Proof.Machine
end

section
/-! PROOFS. Reset and boot (R25, R41 to R43, R200 to R202). -/

namespace Sys2Proof.Machine

theorem Memory.read_nil (a : Nat) : Memory.read [] a = unlistedByte a := rfl

/-- Settles O1: the fields of `State.reset`, each read through its accessor. -/
theorem resetHoldsTheTableOfR25 : Obligations.ResetHoldsTheTableOfR25 := by
  have hv (x : Nibble) : State.reset.getV x = 0#8 := Vector.getElem_replicate _
  have hstack (k : Fin 16) : State.reset.stack[k] = 0#16 := Vector.getElem_replicate _
  have hkeys (k : Fin 16) : State.reset.keys[k] = false := Vector.getElem_replicate _
  have hfb (r : Fin 32) (c : Fin 64) : FrameBuffer.pixel State.reset.fb r c = false := by
    rw [State.reset_fb, FrameBuffer.pixel_blank]
  exact ⟨rfl, hv, rfl, rfl, hstack, rfl, rfl, Memory.read_nil, hfb, rfl, hkeys, rfl, rfl, rfl, rfl⟩

/-! ## The memory of a constructed machine -/

/-- Step (1) of R202: every byte is zero. -/
theorem zeroedMemory_read (a : Nat) : zeroedMemory.read a = 0#8 := by
  rw [zeroedMemory, Memory.read_writeAll, Memory.read_nil, unlistedByte, List.length_replicate]
  by_cases h : a < 80
  · rw [if_pos (by omega)]
    exact List.getD_replicate _ h
  · rw [if_neg (by omega), if_neg h]; rfl

/-- R43, R202: the font at 0 to 79, the program from 0x200 up to the end of memory, and zero elsewhere. -/
theorem loadedMemory_read {font : List Byte} (program : List Byte) (hfont : font.length = 80) (a : Nat) :
    (loadedMemory font program).read a =
      if a < 80 then font.getD a 0
      else if 0x200 ≤ a ∧ a < 0x200 + program.length ∧ a ≤ 0xFFF then program.getD (a - 0x200) 0
      else 0 := by
  have htake : font.take 80 = font := List.take_of_length_le (by omega)
  rw [loadedMemory, htake, Memory.read_writeAll, Memory.read_writeAll, zeroedMemory_read, hfont]
  by_cases ha : a < 80
  · rw [if_neg (by omega), if_pos (by omega), if_pos ha, Nat.sub_zero]
  · rw [if_neg (c := 0 ≤ a ∧ _) (by omega), if_neg ha]; rfl

theorem State.boot_mem (font program : List Byte) : (State.boot font program).mem = loadedMemory font program := rfl

/-- With an empty program the first fetch reads zeros (R43). -/
theorem State.boot_nil_fetch {font : List Byte} (hfont : font.length = 80) : (State.boot font []).fetch = .ok 0#16 := by
  have hread (a : Nat) (ha : 80 ≤ a) : (State.boot font []).mem.read a = 0#8 := by
    rw [State.boot_mem, loadedMemory_read [] hfont, if_neg (by omega), if_neg (by simp; omega)]; rfl
  have hpc : (State.boot font []).pc.toNat = 0x200 := rfl
  rw [State.fetch_of_le (by omega), State.wordAtPc, hpc, hread _ (by omega), hread _ (by omega)]
  rfl

/-- Settles O2: boot changes the memory of reset alone, and that memory is `loadedMemory`. -/
theorem bootLoadsFontAndProgram : Obligations.BootLoadsFontAndProgram :=
  fun _ program hfont => ⟨loadedMemory_read program hfont, rfl, rfl, State.boot_nil_fetch hfont⟩

/-! ## The invariant at construction -/

theorem loadedMemory_wf (font program : List Byte) : (loadedMemory font program).wf :=
  Memory.writeAll_wf _ _ (Memory.writeAll_wf _ _ (Memory.writeAll_wf _ _ State.reset_mem_wf))

/-- Reset with any memory in canonical form meets the invariant: the stack is empty, the machine runs and nothing was emitted. -/
theorem inv_reset_with_mem {m : Memory} (h : m.wf) : Inv { State.reset with mem := m } where
  memory := h
  clean := rfl
  slots k hk := absurd hk (Nat.not_lt_zero _)
  pcBound := show (0x200#16).toNat ≤ 0x10FE by decide
  faultRecord f hf := by cases hf
  diagnostics op a h := absurd h List.not_mem_nil

/-- Settles O3: boot is reset with a canonical memory. -/
theorem bootMeetsTheInvariant : Obligations.BootMeetsTheInvariant :=
  fun font program => inv_reset_with_mem (loadedMemory_wf font program)

/-- Settles O4: so is reset itself. -/
theorem resetMeetsTheInvariant : Obligations.ResetMeetsTheInvariant :=
  inv_reset_with_mem State.reset_mem_wf

end Sys2Proof.Machine
end

section
/-! SUPPORT. The frame of an instruction, clause by clause, from the list of the instructions that write each piece of state (R11 to R24). -/

namespace Sys2Proof.Machine

theorem effect_keepsIndex (i : Instr) (s : State)
    (h : mnemonicOf i ∉ ["LD_I", "ADD_I", "LD_F", "STM", "LDM"] := by simp [mnemonicOf]) : KeepsIndex s (effect i s) :=
  not_not.mp fun hne => h (mnemonic_of_effect_i hne)

theorem effect_keepsStack (i : Instr) (s : State)
    (h : mnemonicOf i ∉ ["CALL", "RET"] := by simp [mnemonicOf]) : KeepsStack s (effect i s) := by
  refine ⟨not_not.mp fun hne => h ?_, not_not.mp fun hne => h (mnemonic_of_effect_sp hne)⟩
  simp [mnemonic_of_effect_stack hne]

theorem effect_keepsTimers (i : Instr) (s : State)
    (h : mnemonicOf i ∉ ["LD_DT_VX", "LD_ST_VX"] := by simp [mnemonicOf]) : KeepsTimers s (effect i s) := by
  refine ⟨not_not.mp fun hne => h ?_, not_not.mp fun hne => h ?_⟩
  · simp [mnemonic_of_effect_dt hne]
  · simp [mnemonic_of_effect_st hne]

theorem effect_keepsMemory (i : Instr) (s : State)
    (h : mnemonicOf i ∉ ["BCD", "STM"] := by simp [mnemonicOf]) : KeepsMemory NoByte s (effect i s) := by
  intro a _
  rw [not_not.mp fun hne => h (mnemonic_of_effect_mem hne)]

theorem effect_keepsDisplay (i : Instr) (s : State)
    (h : mnemonicOf i ∉ ["CLS", "DRW"] := by simp [mnemonicOf]) : KeepsDisplay s (effect i s) :=
  ⟨not_not.mp fun hne => h (mnemonic_of_effect_fb hne), not_not.mp fun hne => h (mnemonic_of_effect_dirty hne)⟩

theorem effect_keepsEvents (i : Instr) (s : State)
    (h : mnemonicOf i ∉ ["UNREC_0", "UNREC_8", "UNREC_E", "UNREC_F"] := by simp [mnemonicOf]) : KeepsEvents s (effect i s) :=
  not_not.mp fun hne => h (mnemonic_of_effect_events hne)

/-- The instructions that write more than registers and `pc`. -/
def writesMoreThanRegs : List String :=
  ["LD_I", "ADD_I", "LD_F", "STM", "LDM", "CALL", "RET", "LD_DT_VX", "LD_ST_VX", "BCD", "CLS", "DRW",
    "UNREC_0", "UNREC_8", "UNREC_E", "UNREC_F"]

/-- Every other instruction writes `pc` and the registers of its list, and nothing else. -/
theorem effect_onlyRegs (i : Instr) (s : State)
    (h : mnemonicOf i ∉ writesMoreThanRegs := by simp [mnemonicOf, writesMoreThanRegs]) :
    OnlyRegs (writesV i) s (effect i s) := by
  have hsub {l : List String} (hl : l ⊆ writesMoreThanRegs) : mnemonicOf i ∉ l := fun hm => h (hl hm)
  exact ⟨effect_keepsV i s, effect_keepsIndex i s (hsub (by decide)), effect_keepsStack i s (hsub (by decide)),
    effect_keepsTimers i s (hsub (by decide)), effect_keepsMemory i s (hsub (by decide)),
    effect_keepsDisplay i s (hsub (by decide)), effect_keepsRun i s, effect_keepsEvents i s (hsub (by decide))⟩

end Sys2Proof.Machine
end

section
/-! PROOFS. Control transfer and the skips on two registers (R100 to R104, R112, R113). -/

namespace Sys2Proof.Machine

/-- Settles O24: JP is one write of `pc`. -/
theorem jpSetsPc : Obligations.JpSetsPc := by
  refine ⟨rowDecodes_jp, fun nnn s => ⟨_, exec_of_no_fault rfl, immNNN_toNat nnn, effect_onlyRegs (.jp nnn) s⟩⟩

/-- Settles O25: JP_V0 is one write of `pc`, of a sum below 65536. -/
theorem jpV0AddsV0 : Obligations.JpV0AddsV0 := by
  refine ⟨rowDecodes_jpV0, fun nnn s => ⟨_, exec_of_no_fault rfl, ?_, effect_onlyRegs (.jpV0 nnn) s⟩⟩
  have hnnn := nnn.isLt
  have hv := (s.getV 0#4).isLt
  rw [effect_pc_toNat, nextPc, Nat.mod_eq_of_lt (by omega)]

/-- Settles O26: CALL is a push of its own address and a write of `pc`. -/
theorem callPushesItsOwnAddress : Obligations.CallPushesItsOwnAddress := by
  intro nnn s
  refine ⟨_, exec_of_no_fault rfl, immNNN_toNat nnn, fun k => ?_, ?_, effect_keepsV (.call nnn) s,
    effect_keepsIndex (.call nnn) s, effect_keepsTimers (.call nnn) s, effect_keepsMemory (.call nnn) s, effect_keepsDisplay (.call nnn) s,
    effect_keepsRun (.call nnn) s, effect_keepsEvents (.call nnn) s⟩
  · simp only [effect, State.setPc_stack, State.push_stack, Fin.getElem_fin, Vector.getElem_set, eq_comm]
  · have hsp := s.sp.isLt
    simp only [effect, State.setPc_sp, State.push_sp]
    split <;> omega

/-- Settles O27: RET on a non-empty stack raises no fault; it moves `sp` down and continues after the CALL the newest slot names. -/
theorem retPopsTheNewestSlot : Obligations.RetPopsTheNewestSlot := by
  intro s k hsp
  have hne : s.sp ≠ 0 := fun e => by simp [e] at hsp
  refine ⟨_, exec_of_no_fault (by simp [faultCondition, hne]), ?_, ?_, rfl, effect_keepsV .ret s,
    effect_keepsIndex .ret s, effect_keepsTimers .ret s, effect_keepsMemory .ret s, effect_keepsDisplay .ret s,
    effect_keepsRun .ret s, effect_keepsEvents .ret s⟩
  · rw [effect, State.setPc_pc, s.topSlot_eq k hsp, BitVec.toNat_add]; rfl
  · simp [effect, State.popped, hsp]

/-- Settles O28: the slot RET pops is the one CALL pushed, so the pair is O26 followed by O27. -/
theorem callThenRetContinuesAfterTheCall : Obligations.CallThenRetContinuesAfterTheCall := by
  intro nnn s t hcall
  obtain ⟨t', ht', _, hslot, hsp, hv, hi, _, hmem, _⟩ := callPushesItsOwnAddress nnn s
  obtain rfl : t' = t := by simpa [hcall] using ht'.symm
  have hk : s.sp.val % 16 < 16 := Nat.mod_lt _ (by decide)
  have hlt := s.sp.isLt
  have htop : t'.sp.val = s.sp.val % 16 + 1 := by rw [hsp]; split <;> omega
  obtain ⟨u, hu, hpc, husp, _, huv, hui, _, humem, _⟩ := retPopsTheNewestSlot t' ⟨s.sp.val % 16, hk⟩ htop
  refine ⟨u, hu, ?_, fun hbelow => Fin.ext ?_, fun r hr => (huv r hr).trans (hv r hr), hui.trans hi,
    fun a ha => (humem a ha).trans (hmem a ha)⟩
  · rw [hpc, hslot, if_pos rfl]
  · rw [husp]
    exact Nat.mod_eq_of_lt hbelow

theorem exec_seReg (x y : Nibble) (s : State) : exec (.seReg x y) s = .next (s.skipIf (s.getV x == s.getV y)) := rfl

theorem exec_sneReg (x y : Nibble) (s : State) : exec (.sneReg x y) s = .next (s.skipIf (s.getV x != s.getV y)) := rfl

/-- Settles O30: both instructions are one `skipIf`, on `Vx = Vy` and on its negation. -/
theorem skipsOnTwoRegisters : Obligations.SkipsOnTwoRegisters := by
  refine ⟨rowDecodes_seReg, rowDecodes_sneReg, fun x y s => ⟨?_, ?_⟩⟩
  · refine ⟨_, exec_seReg x y s, s.skipIf_onlyPc _, ?_⟩
    simp only [State.skipIf_pc_toNat, beq_iff_eq]
  · refine ⟨_, exec_sneReg x y s, s.skipIf_onlyPc _, ?_⟩
    simp only [State.skipIf_pc_toNat, bne_iff_ne, ne_eq, ite_not]

end Sys2Proof.Machine
end

section
/-! SUPPORT. The byte arithmetic of spec/43_alu.md as numbers, and the flags (R11, R132). -/

namespace Sys2Proof.Machine

theorem flagByte_toNat (b : Bool) : (flagByte b).toNat = if b then 1 else 0 := by
  cases b <;> rfl

/-- R126: the wrapped sum is below an addend exactly when the addition carried. -/
theorem carryFlag_add_toNat (a b : Byte) :
    (carryFlag (a + b) b).toNat = if 256 ≤ a.toNat + b.toNat then 1 else 0 := by
  have ha := a.isLt
  have hb := b.isLt
  rw [carryFlag, flagByte_toNat]
  simp only [decide_eq_true_eq, BitVec.lt_def, BitVec.toNat_add]
  split <;> split <;> omega

theorem noBorrowFlag_toNat (a b : Byte) : (noBorrowFlag a b).toNat = if b.toNat < a.toNat then 1 else 0 := by
  rw [noBorrowFlag, flagByte_toNat]
  simp only [decide_eq_true_eq, gt_iff_lt, BitVec.lt_def]

theorem byteSub_toNat (a b : Byte) : (a - b).toNat = (a.toNat + 256 - b.toNat) % 256 := by
  have hb := b.isLt
  rw [BitVec.toNat_sub]
  congr 1
  omega

theorem shrFlag_toNat (b : Byte) : (shrFlag b).toNat = b.toNat % 2 := by
  rw [shrFlag, BitVec.toNat_and]
  exact Nat.and_one_is_mod _

theorem shlFlag_toNat (b : Byte) : (shlFlag b).toNat = b.toNat / 128 := by
  rw [shlFlag, BitVec.toNat_ushiftRight, Nat.shiftRight_eq_div_pow]

theorem byteShr_toNat (b : Byte) : (b >>> 1).toNat = b.toNat / 2 := by
  rw [BitVec.toNat_ushiftRight, Nat.shiftRight_eq_div_pow]

theorem byteShl_toNat (b : Byte) : (b <<< 1).toNat = 2 * b.toNat % 256 := by
  rw [BitVec.toNat_shiftLeft, Nat.shiftLeft_eq, Nat.mul_comm]

/-- The registers once VF is written: VF holds the flag, every other one is as it was. -/
theorem State.getV_flag (s : State) (f : Byte) (y : Nibble) :
    (s.setV 15#4 f).getV y = if y = 15#4 then f else s.getV y := by
  simp only [State.getV_setV, eq_comm]

/-- VF written first keeps the flag under a later write of another register. -/
theorem State.getV_setV_flag {s : State} {x : Nibble} (f b : Byte) (hx : x ≠ 15#4) : ((s.setV 15#4 f).setV x b).getV 15#4 = f := by
  rw [State.getV_setV_of_ne _ _ hx, State.getV_setV_self]

/-- A difference taken once VF is written reads the flag for each operand that is F (D3). -/
theorem State.flag_sub_toNat (s : State) (f : Byte) (a b : Nibble) :
    ((s.setV 15#4 f).getV a - (s.setV 15#4 f).getV b).toNat =
      ((if a = 15#4 then f.toNat else (s.getV a).toNat) + 256 - (if b = 15#4 then f.toNat else (s.getV b).toNat)) % 256 := by
  rw [byteSub_toNat, State.getV_flag, State.getV_flag, apply_ite BitVec.toNat, apply_ite BitVec.toNat]

end Sys2Proof.Machine
end

section
/-! PROOFS. Addition, subtraction, shifts and random (R126 to R131), in the order of effects of D3. -/

namespace Sys2Proof.Machine

/-- Settles O35: the carry is computed from `Vy` after the sum is written, which is the sum itself when `x = y`. -/
theorem addRegWrapsAndSetsCarry : Obligations.AddRegWrapsAndSetsCarry := by
  intro x y s
  refine ⟨_, exec_of_no_fault rfl, fun hx => ?_, ?_, rfl, effect_onlyRegs (.addReg x y) s⟩
  · rw [effect, State.getV_advance, State.getV_setV_of_ne _ _ (Ne.symm hx), State.getV_setV_self, BitVec.toNat_add]
  · rw [effect, State.getV_advance, State.getV_setV_self, State.getV_setV_self, State.getV_setV]
    by_cases hxy : x = y
    · simp [hxy, carryFlag, flagByte]
    · rw [if_neg hxy, carryFlag_add_toNat]
      simp [hxy]

/-- Settles O36: the flag is written first, so the difference reads it wherever `x` or `y` is F. -/
theorem subSetsStrictNoBorrow : Obligations.SubSetsStrictNoBorrow := by
  intro x y s f hf
  have hflag : (noBorrowFlag (s.getV x) (s.getV y)).toNat = f := (noBorrowFlag_toNat _ _).trans hf.symm
  have hdiff : ((effect (.sub x y) s).getV x).toNat =
      ((if x = 15#4 then f else (s.getV x).toNat) + 256 - (if y = 15#4 then f else (s.getV y).toNat)) % 256 := by
    rw [effect, State.getV_advance, State.getV_setV_self, State.flag_sub_toNat, hflag]
  refine ⟨_, exec_of_no_fault rfl, fun hx => ⟨?_, ?_⟩, fun hx hy => ?_, fun hx hy => ?_, rfl, effect_onlyRegs (.sub x y) s⟩
  · rw [effect, State.getV_advance, State.getV_setV_flag _ _ hx, hflag]
  · rw [hdiff, if_neg hx]
  · subst hx
    rw [hdiff, if_pos rfl, if_neg hy]
  · subst hx hy
    rw [effect, State.getV_advance, State.getV_setV_self, BitVec.sub_self]

/-- Settles O37: as for SUB, with the operands of the comparison and of the difference exchanged. -/
theorem subnSetsStrictNoBorrow : Obligations.SubnSetsStrictNoBorrow := by
  intro x y s f hf
  have hflag : (noBorrowFlag (s.getV y) (s.getV x)).toNat = f := (noBorrowFlag_toNat _ _).trans hf.symm
  have hdiff : ((effect (.subn x y) s).getV x).toNat =
      ((if y = 15#4 then f else (s.getV y).toNat) + 256 - (if x = 15#4 then f else (s.getV x).toNat)) % 256 := by
    rw [effect, State.getV_advance, State.getV_setV_self, State.flag_sub_toNat, hflag]
  refine ⟨_, exec_of_no_fault rfl, fun hx => ⟨?_, ?_⟩, fun hx hy => ?_, fun hx hy => ?_, rfl, effect_onlyRegs (.subn x y) s⟩
  · rw [effect, State.getV_advance, State.getV_setV_flag _ _ hx, hflag]
  · rw [hdiff, if_neg hx]
  · subst hx
    rw [hdiff, if_pos rfl, if_neg hy]
  · subst hx hy
    rw [effect, State.getV_advance, State.getV_setV_self, BitVec.sub_self]

/-- Settles O38: the flag is written first, so with `x = F` the shift halves the flag. -/
theorem shrHalvesAndSetsBitZero : Obligations.ShrHalvesAndSetsBitZero := by
  intro x s
  refine ⟨_, exec_of_no_fault rfl, fun hx => ⟨?_, ?_⟩, fun hx => BitVec.eq_of_toNat_eq ?_, rfl, effect_onlyRegs (.shr x) s⟩
  · rw [effect, State.getV_advance, State.getV_setV_self, byteShr_toNat, State.getV_flag, if_neg hx]
  · rw [effect, State.getV_advance, State.getV_setV_flag _ _ hx, shrFlag_toNat]
  · subst hx
    rw [effect, State.getV_advance, State.getV_setV_self, byteShr_toNat, State.getV_setV_self, shrFlag_toNat, BitVec.toNat_ofNat]
    omega

/-- Settles O39: the flag is written first, so with `x = F` the shift doubles the flag. -/
theorem shlDoublesAndSetsBitSeven : Obligations.ShlDoublesAndSetsBitSeven := by
  intro x s
  refine ⟨_, exec_of_no_fault rfl, fun hx => ⟨?_, ?_⟩, fun hx => ?_, rfl, effect_onlyRegs (.shl x) s⟩
  · rw [effect, State.getV_advance, State.getV_setV_self, byteShl_toNat, State.getV_flag, if_neg hx]
  · rw [effect, State.getV_advance, State.getV_setV_flag _ _ hx, shlFlag_toNat]
  · subst hx
    have hlt := (s.getV 15#4).isLt
    rw [effect, State.getV_advance, State.getV_setV_self, byteShl_toNat, State.getV_setV_self, shlFlag_toNat]
    omega

/-- Settles O40: RND is one register write of a bitwise and. -/
theorem rndMasksAnyRandomByte : Obligations.RndMasksAnyRandomByte := by
  rintro x nn r s rfl
  refine ⟨_, exec_of_no_fault rfl, fun k _ => ?_, rfl, effect_onlyRegs (.rnd x nn) s⟩
  rw [effect, State.getV_advance, State.getV_setV_self, BitVec.getLsbD_and]

end Sys2Proof.Machine
end

section
/-! PROOFS. Index, memory, keys, timers and the fallback (R92 to R96, R141 to R145, R150, R160 to R165). -/

namespace Sys2Proof.Machine

/-! ## The index register -/

/-- Settles O42: ADD_I is one write of `I`, of a sum that wraps at 65536. -/
theorem addIWrapsAt65536 : Obligations.AddIWrapsAt65536 := by
  refine fun x s => ⟨_, exec_of_no_fault rfl, ?_, rfl, s.withI_advance_onlyIndex _ 2#16⟩
  rw [effect, State.advance_i, BitVec.toNat_add, zext16_toNat]

/-! ## Memory -/

/-- The block access of `len` bytes from `I` is in range. -/
theorem memRangeFault_of_le {s : State} {len : Nat} (h : s.i.toNat + len ≤ 0x1000) : memRangeFault s len = none := by
  rw [memRangeFault_eq, State.base, if_neg (by omega)]

/-- It is not, and the fault records the lowest address above 0xFFF. -/
theorem memRangeFault_of_gt {s : State} {len : Nat} (hlen : 0 < len) (h : 0x1000 < s.i.toNat + len) :
    memRangeFault s len = some (.memRange (max s.i.toNat 0x1000)) := by
  rw [memRangeFault_eq, State.base, if_pos (by omega)]

/-- A read after a store from `I`: the stored byte in the block, what stood there elsewhere. -/
theorem State.storedAtI_read (s : State) (bs : List Byte) (h : s.base + bs.length ≤ 0x1000) (a : Nat) :
    (s.storedAtI bs).mem.read a =
      if s.base ≤ a ∧ a < s.base + bs.length then bs.getD (a - s.base) 0 else s.mem.read a := by
  rw [State.storedAtI, Memory.read_writeAll]
  by_cases ha : s.base ≤ a ∧ a < s.base + bs.length
  · rw [if_pos (by omega), if_pos ha]
  · rw [if_neg (by omega), if_neg ha]

theorem State.storedAtI_read_add (s : State) (bs : List Byte) (h : s.base + bs.length ≤ 0x1000) {k : Nat} (hk : k < bs.length) :
    (s.storedAtI bs).mem.read (s.base + k) = bs.getD k 0 := by
  rw [State.storedAtI_read s bs h, if_pos (by omega), Nat.add_sub_cancel_left]

theorem State.bumpI_toNat (s : State) (x : Nibble) : (s.bumpI x).i.toNat = (s.i.toNat + x.toNat + 1) % 65536 := by
  simp [BitVec.toNat_add]

theorem byteDiv100_toNat (b : Byte) : (b / 100#8).toNat = b.toNat / 100 := BitVec.toNat_udiv

theorem byteTens_toNat (b : Byte) : ((b / 10#8) % 10#8).toNat = b.toNat / 10 % 10 := by
  rw [BitVec.toNat_umod, BitVec.toNat_udiv]; rfl

theorem bcdBytes_length (b : Byte) : (bcdBytes b).length = 3 := rfl

/-- Settles O44: BCD is one store of three bytes at `I`, after the range test of the fault table. -/
theorem bcdStoresItsThreeDigits : Obligations.BcdStoresItsThreeDigits := by
  refine fun x s => ⟨fun hle => ?_, fun hgt => exec_of_fault (memRangeFault_of_gt (by decide) (by omega))⟩
  have hbase : s.base + (bcdBytes (s.getV x)).length ≤ 0x1000 := by rw [State.base, bcdBytes_length]; omega
  refine ⟨_, exec_of_no_fault (memRangeFault_of_le (by omega)), ?_, ?_, ?_, fun a ha => ?_, rfl, effect_keepsV (.bcd x) s,
    effect_keepsIndex (.bcd x) s, effect_keepsStack (.bcd x) s, effect_keepsTimers (.bcd x) s, effect_keepsDisplay (.bcd x) s,
    effect_keepsRun (.bcd x) s, effect_keepsEvents (.bcd x) s⟩
  · rw [← byteDiv100_toNat]
    exact congrArg _ (State.storedAtI_read_add s _ hbase (k := 0) (by rw [bcdBytes_length]; decide))
  · rw [← byteTens_toNat]
    exact congrArg _ (State.storedAtI_read_add s _ hbase (k := 1) (by rw [bcdBytes_length]; decide))
  · rw [← byteDiv100_toNat]
    exact congrArg _ (State.storedAtI_read_add s _ hbase (k := 2) (by rw [bcdBytes_length]; decide))
  · exact (State.storedAtI_read s _ hbase a).trans (if_neg ha)

theorem State.length_firstVs_blockCount (s : State) (x : Nibble) : (s.firstVs (blockCount x)).length = x.toNat + 1 :=
  s.length_firstVs _

/-- The byte STM stores at `I + k`. -/
theorem State.storedAtI_firstVs_read (s : State) {x k : Nibble} (h : s.i.toNat + x.toNat ≤ 0xFFF) (hk : k.toNat ≤ x.toNat) :
    (s.storedAtI (s.firstVs (blockCount x))).mem.read (s.base + k.toNat) = s.getV k := by
  have hlen := s.length_firstVs_blockCount x
  rw [State.storedAtI_read_add s _ (by rw [State.base]; omega) (by omega),
    State.firstVs_getD _ _ _ (by rw [blockCount]; omega), BitVec.ofNat_toNat, BitVec.setWidth_eq]

/-- Settles O45: STM is one store of `V[0]` to `V[x]` at `I`, after the range test of the fault table. -/
theorem stmStoresTheRegisters : Obligations.StmStoresTheRegisters := by
  refine ⟨rowDecodes_stm, fun x s => ⟨fun hle => ?_, fun hgt => ?_⟩⟩
  · have hlen := s.length_firstVs_blockCount x
    refine ⟨_, exec_of_no_fault (memRangeFault_of_le (by omega)), fun k hk => s.storedAtI_firstVs_read hle hk, fun a ha => ?_,
      State.bumpI_toNat _ x, rfl, effect_keepsV (.stm x) s, effect_keepsStack (.stm x) s, effect_keepsTimers (.stm x) s,
      effect_keepsDisplay (.stm x) s, effect_keepsRun (.stm x) s, effect_keepsEvents (.stm x) s⟩
    exact (State.storedAtI_read s _ (by rw [State.base]; omega) a).trans (if_neg (by omega))
  · exact exec_of_fault (memRangeFault_of_gt (by omega) (by omega))

/-- Settles O46: LDM is one block of register writes from the bytes at `I`, after the range test of the fault table. -/
theorem ldmLoadsTheRegisters : Obligations.LdmLoadsTheRegisters := by
  refine ⟨rowDecodes_ldm, fun x s => ⟨fun hle => ?_, fun hgt => ?_⟩⟩
  · refine ⟨_, exec_of_no_fault (memRangeFault_of_le (by omega)), fun k hk => ?_, effect_keepsV (.ldm x) s, ?_, ?_,
      effect_keepsStack (.ldm x) s, effect_keepsTimers (.ldm x) s, effect_keepsMemory (.ldm x) s, effect_keepsDisplay (.ldm x) s,
      effect_keepsRun (.ldm x) s, effect_keepsEvents (.ldm x) s⟩
    · exact (s.getV_setVsFrom_bytesAtI x k).trans (if_pos hk)
    · rw [effect, State.advance_i, State.bumpI_toNat, State.setVsFrom_i]
    · simp [effect]
  · exact exec_of_fault (memRangeFault_of_gt (by omega) (by omega))

/-- Settles O47: LDM reads back at `I + k` the byte STM stored there. -/
theorem stmThenLdmRestoresTheRegisters : Obligations.StmThenLdmRestoresTheRegisters := by
  intro x s t v' hle hstm
  obtain ⟨_, hstore⟩ := stmStoresTheRegisters
  obtain ⟨_, hload⟩ := ldmLoadsTheRegisters
  obtain ⟨hstored, _⟩ := hstore x s
  obtain ⟨t', ht', hbytes, _⟩ := hstored hle
  obtain rfl : t' = t := by simpa [hstm] using ht'.symm
  obtain ⟨hloaded, _⟩ := hload x { t' with i := s.i, v := v' }
  obtain ⟨u, hu, hregs, _⟩ := hloaded hle
  exact ⟨u, hu, fun k hk => (hregs k hk).trans (hbytes k hk)⟩

/-! ## Clear -/

/-- Settles O48: CLS writes the blank buffer and `dirty`. -/
theorem clsClearsEveryPixel : Obligations.ClsClearsEveryPixel :=
  ⟨rowDecodes_cls, fun s => ⟨_, exec_of_no_fault rfl, FrameBuffer.pixel_blank, rfl, rfl, effect_keepsV .cls s, effect_keepsIndex .cls s,
    effect_keepsStack .cls s, effect_keepsTimers .cls s, effect_keepsMemory .cls s, effect_keepsRun .cls s, effect_keepsEvents .cls s⟩⟩

/-! ## Keys -/

theorem skp_pc_toNat (s : State) (x : Nibble) (k : Fin 16) (hk : (s.getV x).toNat = k.val) :
    (effect (.skp x) s).pc.toNat = (s.pc.toNat + if s.keys[k] = true then 4 else 2) % 65536 := by
  rw [effect, hk, keyHeld_eq, State.skipIf_pc_toNat]

theorem sknp_pc_toNat (s : State) (x : Nibble) (k : Fin 16) (hk : (s.getV x).toNat = k.val) :
    (effect (.sknp x) s).pc.toNat = (s.pc.toNat + if s.keys[k] = true then 2 else 4) % 65536 := by
  rw [effect, hk, keyHeld_eq, State.skipIf_pc_toNat]
  cases s.keys[k] <;> rfl

/-- Settles O53: a key number raises no fault and the skip is on its level; a larger value raises the fault of the table. -/
theorem keySkipsTestTheLevel : Obligations.KeySkipsTestTheLevel := by
  refine fun x s => ⟨fun k hk => ?_, fun hlarge => ?_⟩
  · have hf : keyRangeFault s x = none := by rw [keyRangeFault, if_neg (by omega)]
    exact ⟨⟨_, exec_of_no_fault hf, effect_onlyRegs (.skp x) s, skp_pc_toNat s x k hk⟩,
      ⟨_, exec_of_no_fault hf, effect_onlyRegs (.sknp x) s, sknp_pc_toNat s x k hk⟩⟩
  · have hf : keyRangeFault s x = some (.keyRange (s.getV x)) := by rw [keyRangeFault, if_pos hlarge]
    exact ⟨exec_of_fault hf, exec_of_fault hf⟩

/-- Settles O55: the key scan finds the least held key, or none. -/
theorem waitkeyTakesTheLeastHeldKey : Obligations.WaitkeyTakesTheLeastHeldKey := by
  refine ⟨rowDecodes_waitkey, fun x s => ⟨fun k hheld hleast => ?_, fun hnone => ?_⟩⟩
  · have ht : effect (.waitkey x) s = (s.setV x (BitVec.ofNat 8 k.val)).advance 2#16 :=
      State.takeKey_of_firstKey (State.firstKey_some.mpr ⟨hheld, hleast⟩) x
    refine ⟨_, exec_of_no_fault rfl, ?_, ?_, effect_onlyRegs (.waitkey x) s⟩
    · rw [ht, State.getV_advance, State.getV_setV_self, BitVec.toNat_ofNat, Nat.mod_eq_of_lt (by omega)]
    · rw [ht, State.advance_pc, State.setV_pc]
  · rw [exec_of_no_fault rfl]
    exact congrArg _ (State.takeKey_of_none (State.firstKey_none.mpr hnone) x)

/-! ## Timers -/

/-- The tick of a machine that still runs ends with both timers counted down (R89). -/
theorem State.finishTick_timers {t : State} (h : t.status = .running) :
    t.finishTick.dt.toNat = t.dt.toNat - 1 ∧ t.finishTick.st.toNat = t.st.toNat - 1 := by
  rw [State.finishTick_running h]
  simp [countDown_toNat]

theorem effect_finishTick_timers (i : Instr) {s : State} (h : s.status = .running) :
    (effect i s).finishTick.dt.toNat = (effect i s).dt.toNat - 1 ∧ (effect i s).finishTick.st.toNat = (effect i s).st.toNat - 1 :=
  State.finishTick_timers ((effect_status i s).trans h)

/-- Settles O54: LD_VX_DT is one register write, and DT is counted down after it. -/
theorem ldVxDtReadsTheTimer : Obligations.LdVxDtReadsTheTimer := by
  refine ⟨rowDecodes_ldVxDt, fun x s => ⟨_, exec_of_no_fault rfl, s.getV_setV_self x _, rfl, effect_onlyRegs (.ldVxDt x) s, fun h => ?_⟩⟩
  obtain ⟨hdt, _⟩ := effect_finishTick_timers (.ldVxDt x) h
  exact hdt

/-- Settles O56: each instruction is one write of its timer, which is counted down after it. -/
theorem timersAreSetAndCountInTheSameTick : Obligations.TimersAreSetAndCountInTheSameTick := by
  refine ⟨rowDecodes_ldDtVx, rowDecodes_ldStVx, fun x s => ⟨?_, ?_⟩⟩
  · refine ⟨_, exec_of_no_fault rfl, rfl, rfl, rfl, effect_keepsV (.ldDtVx x) s, effect_keepsIndex (.ldDtVx x) s,
      effect_keepsStack (.ldDtVx x) s, effect_keepsMemory (.ldDtVx x) s, effect_keepsDisplay (.ldDtVx x) s,
      effect_keepsRun (.ldDtVx x) s, effect_keepsEvents (.ldDtVx x) s, fun h => ?_⟩
    obtain ⟨hdt, _⟩ := effect_finishTick_timers (.ldDtVx x) h
    exact hdt
  · refine ⟨_, exec_of_no_fault rfl, rfl, rfl, rfl, effect_keepsV (.ldStVx x) s, effect_keepsIndex (.ldStVx x) s,
      effect_keepsStack (.ldStVx x) s, effect_keepsMemory (.ldStVx x) s, effect_keepsDisplay (.ldStVx x) s,
      effect_keepsRun (.ldStVx x) s, effect_keepsEvents (.ldStVx x) s, fun h => ?_⟩
    obtain ⟨_, hst⟩ := effect_finishTick_timers (.ldStVx x) h
    exact hst

/-! ## The fallback -/

theorem encNNN_toNat (c : Nibble) (low : Low12) : (encNNN c low).toNat = c.toNat * 4096 + low.toNat := by
  rw [encNNN, BitVec.toNat_append, Nat.shiftLeft_eq, Nat.mul_comm, ← Nat.two_pow_add_eq_or_of_lt low.isLt]

/-- R93: the low nibbles no defined row of class 0x8 has are those from 8 on but for E. -/
theorem decodeWord_unrec8 {op : Word} (hc : fieldC op = 0x8#4) (hn : 8 ≤ (fieldN op).toNat) (hne : fieldN op ≠ 0xE#4) :
    decodeWord op = .ok (.unrec8 (fieldNNN op)) := by
  have hmem : fieldN op ∉ ([0x0, 0x1, 0x2, 0x3, 0x4, 0x5, 0x6, 0x7, 0xE] : List Nibble) := by
    simp only [List.mem_cons, List.not_mem_nil, or_false, not_or]
    refine ⟨?_, ?_, ?_, ?_, ?_, ?_, ?_, ?_, hne⟩ <;> (intro h; rw [h] at hn; exact absurd hn (by decide))
  simp [decodeWord, hc, decodeClass8_of_not_mem hmem]

theorem decodeWord_unrecF {op : Word} (hc : fieldC op = 0xF#4)
    (hnn : (fieldNN op).toNat ∉ [0x07, 0x0A, 0x15, 0x18, 0x1E, 0x29, 0x33, 0x55, 0x65]) :
    decodeWord op = .ok (.unrecF (fieldNNN op)) := by
  have hmem : fieldNN op ∉ ([0x07, 0x0A, 0x15, 0x18, 0x1E, 0x29, 0x33, 0x55, 0x65] : List Byte) :=
    fun h => hnn (List.mem_map_of_mem (f := BitVec.toNat) h)
  simp [decodeWord, hc, decodeClassF_of_not_mem hmem]

/-- Nothing changed but `pc` and the outputs. -/
def OnlyOutputs (s t : State) : Prop :=
  KeepsV NoReg s t ∧ KeepsIndex s t ∧ KeepsStack s t ∧ KeepsTimers s t ∧ KeepsMemory NoByte s t ∧ KeepsDisplay s t ∧ KeepsRun s t

/-- R96: an unrecognized word writes nothing but its diagnostic and `pc`. -/
theorem State.unrecognized_onlyOutputs (s : State) (op : Word) : OnlyOutputs s (s.unrecognized op) :=
  ⟨fun _ _ => rfl, rfl, ⟨rfl, rfl⟩, ⟨rfl, rfl⟩, fun _ _ => rfl, ⟨rfl, rfl⟩, ⟨rfl, rfl, rfl, rfl⟩⟩

/-- Settles O57: the words by their class, and each of the four instructions is one `unrecognized`. -/
theorem unrecognizedWordsOnlyReport : Obligations.UnrecognizedWordsOnlyReport := by
  refine ⟨fun op hc hcls hret => ?_, fun op hc ⟨hn, hne⟩ => decodeWord_unrec8 hc hn hne, fun op hc hskp hsknp => ?_,
    fun op hc hnn => decodeWord_unrecF hc hnn, fun low s i c hi => ?_⟩
  · simp [decodeWord, hc, decodeClass0, Config.decodeKey0, hcls, hret]
  · simp [decodeWord, hc, decodeClassE, Config.decodeKeyE, hskp, hsknp]
  · rcases hi with ⟨rfl, rfl⟩ | ⟨rfl, rfl⟩ | ⟨rfl, rfl⟩ | ⟨rfl, rfl⟩ <;>
      exact ⟨_, _, exec_of_no_fault rfl, encNNN_toNat _ low, rfl, rfl, s.unrecognized_onlyOutputs _⟩

end Sys2Proof.Machine
end

section
/-! PROOFS. The blit and DRW (R151 to R153). A bit, a byte and a sprite each invert the pixels they cover; the bits of a byte land on different
columns and the bytes of a sprite on different rows, so no pixel is inverted twice. -/

namespace Sys2Proof.Machine

/-! ## Inverting a set of pixels -/

/-- `fb'` is `fb` with the pixels in `P` inverted. -/
def Inverts (P : Fin 32 → Fin 64 → Prop) (fb fb' : FrameBuffer) : Prop :=
  ∀ r c, (P r c → FrameBuffer.pixel fb' r c = !FrameBuffer.pixel fb r c) ∧
    (¬ P r c → FrameBuffer.pixel fb' r c = FrameBuffer.pixel fb r c)

/-- A pixel of `P` is set in `fb`. -/
def Hits (P : Fin 32 → Fin 64 → Prop) (fb : FrameBuffer) : Prop := ∃ r c, P r c ∧ FrameBuffer.pixel fb r c = true

theorem Inverts.refl_of_empty {P : Fin 32 → Fin 64 → Prop} (hP : ∀ r c, ¬ P r c) (fb : FrameBuffer) : Inverts P fb fb :=
  fun r c => ⟨fun h => absurd h (hP r c), fun _ => rfl⟩

/-- Inverting two disjoint sets one after the other inverts their union. -/
theorem Inverts.trans {P Q R : Fin 32 → Fin 64 → Prop} {fb fb' fb'' : FrameBuffer} (hP : Inverts P fb fb')
    (hQ : Inverts Q fb' fb'') (hR : ∀ r c, R r c ↔ P r c ∨ Q r c) (hdisj : ∀ r c, P r c → ¬ Q r c) : Inverts R fb fb'' := by
  intro r c
  obtain ⟨hPin, hPout⟩ := hP r c
  obtain ⟨hQin, hQout⟩ := hQ r c
  rw [hR r c]
  refine ⟨?_, fun h => ?_⟩
  · rintro (h | h)
    · rw [hQout (hdisj r c h), hPin h]
    · rw [hQin h, hPout fun hp => hdisj r c hp h]
  · rw [hQout fun h' => h (.inr h'), hPout fun h' => h (.inl h')]

/-- A set disjoint from the inverted one hits what it hit before. -/
theorem Inverts.hits_iff {P Q : Fin 32 → Fin 64 → Prop} {fb fb' : FrameBuffer} (hP : Inverts P fb fb')
    (hdisj : ∀ r c, P r c → ¬ Q r c) : Hits Q fb' ↔ Hits Q fb := by
  have heq {r c} (hq : Q r c) : FrameBuffer.pixel fb' r c = FrameBuffer.pixel fb r c := by
    obtain ⟨_, hout⟩ := hP r c
    exact hout fun hp => hdisj r c hp hq
  constructor
  · rintro ⟨r, c, hq, h⟩
    exact ⟨r, c, hq, by rw [← heq hq, h]⟩
  · rintro ⟨r, c, hq, h⟩
    exact ⟨r, c, hq, by rw [heq hq, h]⟩

theorem hits_union {P Q R : Fin 32 → Fin 64 → Prop} (hR : ∀ r c, R r c ↔ P r c ∨ Q r c) (fb : FrameBuffer) :
    Hits R fb ↔ Hits P fb ∨ Hits Q fb := by
  simp only [Hits, hR, or_and_right, exists_or]

/-! ## What a run of the blit does -/

/-- From `acc` to `acc'` the blit drew the set `P`: its pixels are inverted, and the collision flag is set where one of them was set. -/
structure Draws (P : Fin 32 → Fin 64 → Prop) (acc acc' : FrameBuffer × Bool) : Prop where
  inverts : Inverts P acc.1 acc'.1
  collides : acc'.2 = true ↔ acc.2 = true ∨ Hits P acc.1

theorem Draws.refl_of_empty {P : Fin 32 → Fin 64 → Prop} (hP : ∀ r c, ¬ P r c) (acc : FrameBuffer × Bool) : Draws P acc acc where
  inverts := Inverts.refl_of_empty hP acc.1
  collides := by simp [Hits, hP]

/-- Drawing two disjoint sets one after the other draws their union. -/
theorem Draws.trans {P Q R : Fin 32 → Fin 64 → Prop} {acc acc' acc'' : FrameBuffer × Bool} (hP : Draws P acc acc')
    (hQ : Draws Q acc' acc'') (hR : ∀ r c, R r c ↔ P r c ∨ Q r c) (hdisj : ∀ r c, P r c → ¬ Q r c) : Draws R acc acc'' where
  inverts := hP.inverts.trans hQ.inverts hR hdisj
  collides := by rw [hQ.collides, hP.collides, hP.inverts.hits_iff hdisj, hits_union hR, or_assoc]

/-- Bit `i` of a sprite byte lands on the pixel. -/
def bitCovers (x y : Nat) (b : Byte) (i : Nat) (r : Fin 32) (c : Fin 64) : Prop :=
  b.getLsbD (7 - i) = true ∧ (x + i) % 64 = c.val ∧ y % 32 = r.val

/-- One of the first `n` bits of a sprite byte lands on the pixel. -/
def bitsCover (x y : Nat) (b : Byte) (n : Nat) (r : Fin 32) (c : Fin 64) : Prop := ∃ i, i < n ∧ bitCovers x y b i r c

theorem blitBit_draws (x y j : Nat) (b : Byte) (acc : FrameBuffer × Bool) (i : Nat) :
    Draws (bitCovers x (y + j) b i) acc (blitBit x y j b acc i) where
  inverts r c := by
    have hr : r = blitRow y j ↔ (y + j) % 32 = r.val := by rw [blitRow, Fin.ext_iff, eq_comm]
    have hc : c = blitCol x i ↔ (x + i) % 64 = c.val := by rw [blitCol, Fin.ext_iff, eq_comm]
    rw [blitBit_pixel, decide_eq_decide.mpr hr, decide_eq_decide.mpr hc]
    refine ⟨fun ⟨hb, hcol, hrow⟩ => by simp [hb, hcol, hrow], fun h => ?_⟩
    have hoff : (b.getLsbD (7 - i) && decide ((y + j) % 32 = r.val) && decide ((x + i) % 64 = c.val)) = false := by
      simp only [bitCovers, not_and] at h
      simp only [Bool.and_eq_false_imp, Bool.and_eq_true, decide_eq_true_eq, decide_eq_false_iff_not]
      exact fun ⟨hb, hrow⟩ hcol => h hb hcol hrow
    rw [hoff, Bool.xor_false]
  collides := by
    rw [blitBit_collision]
    simp only [Bool.or_eq_true, Bool.and_eq_true]
    refine or_congr_right ⟨fun ⟨hb, h⟩ => ⟨_, _, ⟨hb, rfl, rfl⟩, h⟩, ?_⟩
    rintro ⟨r, c, ⟨hb, hcol, hrow⟩, h⟩
    obtain rfl : blitRow y j = r := Fin.ext hrow
    obtain rfl : blitCol x i = c := Fin.ext hcol
    exact ⟨hb, h⟩

theorem bitsCover_succ (x y : Nat) (b : Byte) (n : Nat) (r : Fin 32) (c : Fin 64) :
    bitsCover x y b (n + 1) r c ↔ bitsCover x y b n r c ∨ bitCovers x y b n r c := by
  simp only [bitsCover, Nat.lt_succ_iff_lt_or_eq, or_and_right, exists_or, exists_eq_left]

/-- Up to eight bits of a byte land on different columns. -/
theorem blitBits_draws (x y j : Nat) (b : Byte) (acc : FrameBuffer × Bool) {n : Nat} (hn : n ≤ 8) :
    Draws (bitsCover x (y + j) b n) acc ((List.range n).foldl (blitBit x y j b) acc) := by
  induction n with
  | zero => exact Draws.refl_of_empty (fun _ _ ⟨_, h, _⟩ => absurd h (Nat.not_lt_zero _)) acc
  | succ n ih =>
    rw [List.range_succ, List.foldl_append]
    refine (ih (by omega)).trans (blitBit_draws x y j b _ n) (bitsCover_succ x (y + j) b n) ?_
    rintro r c ⟨i, hi, _, hcol, _⟩ ⟨_, hcol', _⟩
    omega

theorem blitByte_draws (x y j : Nat) (b : Byte) (acc : FrameBuffer × Bool) :
    Draws (bitsCover x (y + j) b 8) acc (blitByte x y j b acc) :=
  blitBits_draws x y j b acc (Nat.le_refl 8)

theorem spriteCovers_nil (x y : Nat) (r : Fin 32) (c : Fin 64) : ¬ spriteCovers x y [] r c :=
  fun ⟨_, _, h, _⟩ => absurd h (Nat.not_lt_zero _)

/-- A sprite covers what its first byte covers and what the rest covers one row below. -/
theorem spriteCovers_cons (x y : Nat) (b : Byte) (bs : List Byte) (r : Fin 32) (c : Fin 64) :
    spriteCovers x y (b :: bs) r c ↔ bitsCover x y b 8 r c ∨ spriteCovers x (y + 1) bs r c := by
  constructor
  · rintro ⟨j, i, hj, hi, hb, hcol, hrow⟩
    cases j with
    | zero => exact .inl ⟨i, hi, hb, hcol, hrow⟩
    | succ j => exact .inr ⟨j, i, Nat.lt_of_succ_lt_succ hj, hi, hb, hcol, by rw [← hrow]; congr 1; omega⟩
  · rintro (⟨i, hi, hb, hcol, hrow⟩ | ⟨j, i, hj, hi, hb, hcol, hrow⟩)
    · exact ⟨0, i, Nat.succ_pos _, hi, hb, hcol, hrow⟩
    · exact ⟨j + 1, i, Nat.succ_lt_succ hj, hi, hb, hcol, by rw [← hrow]; congr 1; omega⟩

/-- Up to 32 bytes of a sprite land on different rows. -/
theorem blitFrom_draws (x y j : Nat) (bs : List Byte) (acc : FrameBuffer × Bool) (h : bs.length ≤ 32) :
    Draws (spriteCovers x (y + j) bs) acc (blitFrom x y j bs acc) := by
  induction bs generalizing j acc with
  | nil => exact Draws.refl_of_empty (spriteCovers_nil x (y + j)) acc
  | cons b bs ih =>
    rw [List.length_cons] at h
    refine (blitByte_draws x y j b acc).trans (ih (j + 1) _ (by omega)) (spriteCovers_cons x (y + j) b bs) ?_
    rintro r c ⟨_, _, _, _, hrow⟩ ⟨k, _, hk, _, _, _, hrow'⟩
    omega

/-- R151: the blit of a sprite draws what the sprite covers. -/
theorem blit_draws (x y : Nat) {rows : List Byte} (fb : FrameBuffer) (h : rows.length ≤ 15) :
    Draws (spriteCovers x y rows) (fb, false) (blit x y rows fb) :=
  blitFrom_draws x y 0 rows (fb, false) (by omega)

theorem blit_inverts (x y : Nat) {rows : List Byte} (fb : FrameBuffer) (h : rows.length ≤ 15) :
    Inverts (spriteCovers x y rows) fb (blit x y rows fb).1 :=
  (blit_draws x y fb h).inverts

theorem blit_collides_iff (x y : Nat) {rows : List Byte} (fb : FrameBuffer) (h : rows.length ≤ 15) :
    (blit x y rows fb).2 = true ↔ spriteCollides x y rows fb := by
  simpa [Hits, spriteCollides] using (blit_draws x y fb h).collides

/-- Settles O49: the blit draws what the sprite covers. -/
theorem blitInvertsExactlyTheCoveredPixels : Obligations.BlitInvertsExactlyTheCoveredPixels :=
  fun x y _ fb h => blit_inverts x y fb h

/-- Settles O50: the blit draws what the sprite covers. -/
theorem blitReportsExactlyTheCollisions : Obligations.BlitReportsExactlyTheCollisions :=
  fun x y _ fb h => blit_collides_iff x y fb h

/-! ## Drawing twice (R153 (a)) -/

/-- Inverting a set twice restores the buffer. -/
theorem Inverts.involutive {P : Fin 32 → Fin 64 → Prop} {fb fb' fb'' : FrameBuffer} (h : Inverts P fb fb')
    (h' : Inverts P fb' fb'') : fb'' = fb := by
  refine FrameBuffer.ext_pixel fun r c => ?_
  obtain ⟨hin, hout⟩ := h r c
  obtain ⟨hin', hout'⟩ := h' r c
  by_cases hP : P r c
  · rw [hin' hP, hin hP, Bool.not_not]
  · rw [hout' hP, hout hP]

/-- A byte that is not zero has a set bit, counted from the left. -/
theorem exists_setBit_of_ne_zero {b : Byte} (h : b ≠ 0#8) : ∃ i, i < 8 ∧ b.getLsbD (7 - i) = true := by
  by_contra hnone
  refine h (BitVec.eq_of_getLsbD_eq fun k hk => ?_)
  rw [BitVec.getLsbD_zero]
  by_contra hset
  exact hnone ⟨7 - k, by omega, by rw [show 7 - (7 - k) = k by omega]; simpa using hset⟩

/-- A sprite with a set bit covers a pixel. -/
theorem exists_spriteCovers (x y : Nat) {rows : List Byte} (h : ∃ b ∈ rows, b ≠ 0#8) : ∃ r c, spriteCovers x y rows r c := by
  obtain ⟨b, hb, hne⟩ := h
  obtain ⟨j, hj, rfl⟩ := List.mem_iff_getElem.mp hb
  obtain ⟨i, hi, hbit⟩ := exists_setBit_of_ne_zero hne
  exact ⟨blitRow y j, blitCol x i, j, i, hj, hi, by rwa [List.getD_eq_getElem _ _ hj], rfl, rfl⟩

/-- Settles O51: inverting twice restores the buffer, and after the first draw on a clear buffer every covered pixel is set. -/
theorem drawingTwiceRestoresTheBuffer : Obligations.DrawingTwiceRestoresTheBuffer := by
  intro x y rows fb hlen
  have hfirst := blit_inverts x y fb hlen
  refine ⟨hfirst.involutive (blit_inverts x y _ hlen), fun hblank hset => ?_⟩
  obtain ⟨r, c, hcovers⟩ := exists_spriteCovers x y hset
  obtain ⟨hin, _⟩ := hfirst r c
  refine (blit_collides_iff x y _ hlen).mpr ⟨r, c, hcovers, ?_⟩
  rw [hin hcovers, hblank, FrameBuffer.pixel_blank, Bool.not_false]

/-! ## DRW -/

/-- The block access of a sprite of `n` bytes is in range, or there is no byte to access. -/
theorem memRangeFault_drw {s : State} {n : Nibble} (h : n = 0#4 ∨ s.i.toNat + n.toNat ≤ 0x1000) : memRangeFault s n.toNat = none := by
  rcases h with rfl | h
  · rw [memRangeFault_eq, if_neg (by simp)]
  · exact memRangeFault_of_le h

/-- Settles O52: DRW blits the bytes at `I` at the old coordinates and then writes VF, after the range test of the fault table. -/
theorem drwDrawsTheSprite : Obligations.DrwDrawsTheSprite := by
  refine ⟨rowDecodes_drw, fun x y n s rows hrows => ⟨fun hrange => ?_, fun hn hgt => ?_⟩⟩
  · obtain rfl : rows = s.bytesAtI n.toNat := hrows
    have hlen : (s.bytesAtI n.toNat).length ≤ 15 := by
      have := n.isLt
      rw [State.length_bytesAtI]; omega
    have hcollides := blit_collides_iff (s.getV x).toNat (s.getV y).toNat s.fb hlen
    have hflag : (effect (.drw x y n) s).getV 15#4 =
        collisionFlag (blit (s.getV x).toNat (s.getV y).toNat (s.bytesAtI n.toNat) s.fb).2 := by
      rw [effect, State.getV_advance, State.getV_setV_self]
    refine ⟨_, exec_of_no_fault (memRangeFault_drw hrange), blit_inverts _ _ s.fb hlen, fun h => ?_, fun h => ?_, rfl, rfl,
      effect_keepsV (.drw x y n) s, effect_keepsIndex (.drw x y n) s, effect_keepsStack (.drw x y n) s, effect_keepsTimers (.drw x y n) s,
      effect_keepsMemory (.drw x y n) s, effect_keepsRun (.drw x y n) s, effect_keepsEvents (.drw x y n) s⟩
    · rw [hflag, hcollides.mpr h]; rfl
    · rw [hflag, Bool.eq_false_iff.mpr fun hc => h (hcollides.mp hc)]; rfl
  · have hpos : 0 < n.toNat := Nat.pos_of_ne_zero fun h => hn (BitVec.eq_of_toNat_eq (by simpa using h))
    exact exec_of_fault (memRangeFault_of_gt hpos hgt)

end Sys2Proof.Machine
end
